-- ==== Sys2Proof/Word.lean ====
section
/-! DEFINITION. Word.lean: the two data widths of the machine (spec rule R9: a byte is 8 bits, a word is 16
bits, every value is unsigned). `+8` and `+16` of the spec are the wrapping additions of these types. -/

namespace Sys2Proof

/-- A memory cell, an operand byte, and each of `A`, `X`, `Y`, `EAH`, `EAL`, `T0`, `T1` (R7 `DATA_WIDTH`). -/
abbrev Byte := BitVec 8

/-- An address, and each of `IP`, `SP`, `EAP` (R7 `ADDR_WIDTH`, `IP_WIDTH`, `SP_WIDTH`). -/
abbrev Word := BitVec 16

end Sys2Proof
end

