-- ==== Sys2Proof/Config.lean ====
section
/-! DEFINITION. Config.lean: the implementation parameters of spec rule R7, and the values left open at
power-on (parameter `INIT`, R30, D16). `EXT_STORE` and `EXT_TRANSFER` are OPEN parameters (D3, D4): a
`Config` is a choice of the two, and State carries the one the machine was built with. -/

namespace Sys2Proof

/-- The two open Boolean parameters of R7: whether the 13 store opcodes and the 4 transfer opcodes are mapped (R170). -/
structure Config where
  extStore    : Bool
  extTransfer : Bool
deriving DecidableEq, Repr

/-- The recommended default of both parameters is `false` (R7, D3, D4): the base table. -/
def Config.base : Config := { extStore := false, extTransfer := false }

/-- The power-on values the spec leaves open (R30): one arbitrary value for each element it names. -/
structure Init where
  a      : Byte
  x      : Byte
  y      : Byte
  sp     : Word
  ip     : Word
  c      : Bool
  z      : Bool
  i      : Bool
  d      : Bool
  b0     : Bool
  b1     : Bool
  v      : Bool
  n      : Bool
  halted : Bool
  eah    : Byte
  eal    : Byte
  t0     : Byte
  t1     : Byte
deriving DecidableEq, Repr

/-- The one choice of `INIT` that `State.reset` names. DESIGN CHOICE, unsafe: the spec leaves every one of these values
open (log entry 1). -/
def Init.zero : Init :=
  { a := 0, x := 0, y := 0, sp := 0, ip := 0, c := false, z := false, i := false, d := false, b0 := false,
    b1 := false, v := false, n := false, halted := false, eah := 0, eal := 0, t0 := 0, t1 := 0 }

/-- `MEM_SIZE` (R7): the memory has 65536 cells. -/
def memSize : Nat := 0x10000

/-- `ORIGIN` (R7): where a program is loaded, and the value `load_program` puts in the reset vector. -/
def origin : Word := 0x8000

/-- `RESET_VECTOR_LO` (R7). -/
def resetVectorLo : Word := 0xFFFC

/-- `RESET_VECTOR_HI` (R7). -/
def resetVectorHi : Word := 0xFFFD

/-- `HALT_OPCODE` (R7, R69). -/
def haltOpcode : Byte := 0xFF

/-- `TABLE_SIZE` (R7, R64). -/
def tableSize : Nat := 256

/-- `MAX_PROGRAM_LEN` (R7; conflict C1 is resolved to this bound). -/
def maxProgramLen : Nat := 0x7FFF

/-- `Q_DEPTH` (R7, R24): the largest number of micro-ops ever in the queue. -/
def qDepth : Nat := 9

end Sys2Proof
end

