-- ==== Sys2Proof/Syntax.lean ====
section
/-! DEFINITION. Syntax.lean: the names the machine computes with: register selectors, addressing modes, dispatch
table entries, micro-ops, and the instructions of the opcode table.

An `Instr` is what the decoder's table answers for ONE OPCODE BYTE: the opcode byte is one undivided field and the
decoder extracts no sub-field (R60, R62); the operand bytes of an instruction are fetched later, by the micro-ops its
entry enqueues (R62, R103). So `Instr` has no operand fields, as the rows of spec/opcode_table.json have none;
`Code` below is an instruction together with its operand bytes, as it stands in memory (R60, R61). -/

namespace Sys2Proof

/-- The three general registers (R10); the target or source of a table entry (R64). -/
inductive Reg where
  | a | x | y
deriving DecidableEq, Repr

/-- Register selectors (R9, R126): the general registers and the two hidden latches of the resolver (R23). -/
inductive Sel where
  | a | x | y | t0 | t1
deriving DecidableEq, Repr

/-- Source operand of an address micro-op (R9): a constant byte or a register read at the tick it executes (R141). -/
inductive Src where
  | const (b : Byte)
  | reg (s : Sel)
deriving DecidableEq, Repr

/-- The ten addressing modes (R9, R81 to R90). There is no eleventh (R91, conflict C3). -/
inductive Mode where
  | imp | imm | zp | zpx | zpy | abs | abx | aby | izx | izy
deriving DecidableEq, Repr

/-- A micro-op: the nine tags of R126, each with at most one operand. -/
inductive MicroOp where
  | fetchByte (s : Sel)
  | fetchAddrLo
  | fetchAddrHi
  | setAddrLo (src : Src)
  | setAddrHi (src : Src)
  | addAddrLo (src : Src)
  | addAddrHi (src : Src)
  | readMem (s : Sel)
  | writeMem (s : Sel)
deriving DecidableEq, Repr

/-- An entry of the dispatch table (R64). -/
inductive Entry where
  | unmapped
  | halt
  | load (target : Reg) (mode : Mode)
  | store (source : Reg) (mode : Mode)
  | transfer (source target : Reg)
deriving DecidableEq, Repr

/-- The instructions: one constructor for every mapped opcode of R66 and R67, and `unmapped` for the other opcode values,
which all do the same (R107) and are told apart by their byte (log entry 11). The row of a store or of a transfer is, in
spec/opcode_table.json, an UNMAPPED row with an `ext` part (R74). -/
inductive Instr where
  | ldaImm | ldaZp | ldaZpx | ldaAbs | ldaAbx | ldaAby | ldaIzx | ldaIzy
  | ldxImm | ldxZp | ldxZpy | ldxAbs | ldxAby
  | ldyImm | ldyZp | ldyZpx | ldyAbs | ldyAbx
  | hlt
  | unmapped (op : Byte)
  | staZp | staZpx | staAbs | staAbx | staAby | staIzx | staIzy
  | stxZp | stxZpy | stxAbs
  | styZp | styZpx | styAbs
  | tax | tay | txa | tya
deriving DecidableEq, Repr

/-- An instruction as it stands in memory (R60): the instruction its opcode byte names, and its operand bytes in
increasing address order. -/
structure Code where
  instr    : Instr
  operands : List Byte
deriving DecidableEq, Repr

/-- Why a list of bytes is no instruction: every opcode byte is one (R64), so only a missing byte can be the reason. -/
inductive DecodeError where
  /-- There is not even an opcode byte. -/
  | noOpcodeByte
  /-- The instruction needs more operand bytes than the list holds. -/
  | operandBytesMissing (i : Instr)
deriving DecidableEq, Repr

end Sys2Proof
end

