-- ==== Sys2Proof/Decode.lean ====
section
/-! DEFINITION. Decode.lean: the dispatch table (R64, R66, R67), the decoder over it, and the encoder.
PRESUMED: all opcode values but five are, in the spec itself, general knowledge of the MOS 6502 (log entry 14). -/

namespace Sys2Proof

/-- `operand_bytes(m)` (R94, the last column of R61): how many operand bytes a mode consumes. -/
def Mode.operandBytes : Mode → Nat
  | .imp => 0
  | .imm => 1
  | .zp  => 1
  | .zpx => 1
  | .zpy => 1
  | .abs => 2
  | .abx => 2
  | .aby => 2
  | .izx => 1
  | .izy => 1

/-- The mode of a table entry: entries without an operand are Implied (R61, R90). -/
def Entry.mode : Entry → Mode
  | .unmapped     => .imp
  | .halt         => .imp
  | .load _ m     => m
  | .store _ m    => m
  | .transfer _ _ => .imp

/-- The table entry each instruction stands for: the `entry` column of R66 and R67. -/
def Instr.entry : Instr → Entry
  | .ldaImm => .load .a .imm
  | .ldaZp  => .load .a .zp
  | .ldaZpx => .load .a .zpx
  | .ldaAbs => .load .a .abs
  | .ldaAbx => .load .a .abx
  | .ldaAby => .load .a .aby
  | .ldaIzx => .load .a .izx
  | .ldaIzy => .load .a .izy
  | .ldxImm => .load .x .imm
  | .ldxZp  => .load .x .zp
  | .ldxZpy => .load .x .zpy
  | .ldxAbs => .load .x .abs
  | .ldxAby => .load .x .aby
  | .ldyImm => .load .y .imm
  | .ldyZp  => .load .y .zp
  | .ldyZpx => .load .y .zpx
  | .ldyAbs => .load .y .abs
  | .ldyAbx => .load .y .abx
  | .hlt    => .halt
  | .unmapped _ => .unmapped
  | .staZp  => .store .a .zp
  | .staZpx => .store .a .zpx
  | .staAbs => .store .a .abs
  | .staAbx => .store .a .abx
  | .staAby => .store .a .aby
  | .staIzx => .store .a .izx
  | .staIzy => .store .a .izy
  | .stxZp  => .store .x .zp
  | .stxZpy => .store .x .zpy
  | .stxAbs => .store .x .abs
  | .styZp  => .store .y .zp
  | .styZpx => .store .y .zpx
  | .styAbs => .store .y .abs
  | .tax    => .transfer .a .x
  | .tay    => .transfer .a .y
  | .txa    => .transfer .x .a
  | .tya    => .transfer .y .a

/-- The addressing mode of an instruction: the `format` column of R66 and R67. -/
def Instr.mode (i : Instr) : Mode := i.entry.mode

/-- How many bytes an instruction occupies (R60, R62): the opcode byte and its operand bytes. -/
def Instr.length (i : Instr) : Nat := 1 + i.mode.operandBytes

/-- The base table (R66): the 18 loads and the halt. -/
def baseRows : List (Byte × Instr) :=
  [(0xA9, .ldaImm), (0xA5, .ldaZp), (0xB5, .ldaZpx), (0xAD, .ldaAbs), (0xBD, .ldaAbx), (0xB9, .ldaAby),
   (0xA1, .ldaIzx), (0xB1, .ldaIzy),
   (0xA2, .ldxImm), (0xA6, .ldxZp), (0xB6, .ldxZpy), (0xAE, .ldxAbs), (0xBE, .ldxAby),
   (0xA0, .ldyImm), (0xA4, .ldyZp), (0xB4, .ldyZpx), (0xAC, .ldyAbs), (0xBC, .ldyAbx),
   (0xFF, .hlt)]

/-- The entries that replace `Unmapped` when `EXT_STORE` is true (R67). -/
def storeRows : List (Byte × Instr) :=
  [(0x85, .staZp), (0x95, .staZpx), (0x8D, .staAbs), (0x9D, .staAbx), (0x99, .staAby), (0x81, .staIzx),
   (0x91, .staIzy), (0x86, .stxZp), (0x96, .stxZpy), (0x8E, .stxAbs), (0x84, .styZp), (0x94, .styZpx),
   (0x8C, .styAbs)]

/-- The entries that replace `Unmapped` when `EXT_TRANSFER` is true (R67). -/
def transferRows : List (Byte × Instr) :=
  [(0xAA, .tax), (0xA8, .tay), (0x8A, .txa), (0x98, .tya)]

/-- The mapped rows of the table of a machine built with parameters `cfg` (R170). -/
def tableRows (cfg : Config) : List (Byte × Instr) :=
  baseRows ++ ((if cfg.extStore then storeRows else []) ++ (if cfg.extTransfer then transferRows else []))

/-- The opcode values that are not `Unmapped` (R66, R67), as sets of numbers, apart from the decoder's rows. -/
def mappedOpcodes (cfg : Config) : List Byte :=
  [0xA0, 0xA1, 0xA2, 0xA4, 0xA5, 0xA6, 0xA9, 0xAC, 0xAD, 0xAE,
   0xB1, 0xB4, 0xB5, 0xB6, 0xB9, 0xBC, 0xBD, 0xBE, 0xFF]
  ++ ((if cfg.extStore then
        [0x81, 0x84, 0x85, 0x86, 0x8C, 0x8D, 0x8E, 0x91, 0x94, 0x95, 0x96, 0x99, 0x9D] else [])
  ++ (if cfg.extTransfer then [0x8A, 0x98, 0xA8, 0xAA] else []))

/-- `TABLE[op]` (R64, R102): total, `Unmapped` where no row is. -/
def decodeOpcode (cfg : Config) (op : Byte) : Instr :=
  match (tableRows cfg).lookup op with
  | some i => i
  | none   => .unmapped op

/-- The decoder over a list of bytes, the opcode byte first (R60): the instruction with the operand bytes its mode
requires, and the bytes that follow it. The only rejections are for bytes that are missing. -/
def decode (cfg : Config) : List Byte → Except DecodeError (Code × List Byte)
  | []         => .error .noOpcodeByte
  | op :: rest =>
    let i := decodeOpcode cfg op
    let n := i.mode.operandBytes
    if rest.length < n then .error (.operandBytesMissing i)
    else .ok ({ instr := i, operands := rest.take n }, rest.drop n)

/-- The opcode byte of an instruction: the `opcode` column of R66 and R67, written out once more from the spec. -/
def encodeOpcode : Instr → Byte
  | .ldaImm => 0xA9
  | .ldaZp  => 0xA5
  | .ldaZpx => 0xB5
  | .ldaAbs => 0xAD
  | .ldaAbx => 0xBD
  | .ldaAby => 0xB9
  | .ldaIzx => 0xA1
  | .ldaIzy => 0xB1
  | .ldxImm => 0xA2
  | .ldxZp  => 0xA6
  | .ldxZpy => 0xB6
  | .ldxAbs => 0xAE
  | .ldxAby => 0xBE
  | .ldyImm => 0xA0
  | .ldyZp  => 0xA4
  | .ldyZpx => 0xB4
  | .ldyAbs => 0xAC
  | .ldyAbx => 0xBC
  | .hlt    => 0xFF
  | .unmapped op => op
  | .staZp  => 0x85
  | .staZpx => 0x95
  | .staAbs => 0x8D
  | .staAbx => 0x9D
  | .staAby => 0x99
  | .staIzx => 0x81
  | .staIzy => 0x91
  | .stxZp  => 0x86
  | .stxZpy => 0x96
  | .stxAbs => 0x8E
  | .styZp  => 0x84
  | .styZpx => 0x94
  | .styAbs => 0x8C
  | .tax    => 0xAA
  | .tay    => 0xA8
  | .txa    => 0x8A
  | .tya    => 0x98

/-- The bytes of an instruction in increasing address order (R60, R61). -/
def encode (c : Code) : List Byte := encodeOpcode c.instr :: c.operands

/-- The first three bytes (the longest instruction, R60) of an instruction whose bits are `w`, numbered as
spec/opcode_table.json numbers them: byte 0 is bits 7:0, byte 1 bits 15:8, byte 2 bits 23:16; bits from `nbits` on are 0. -/
def tableWordBytes (nbits w : Nat) : List Byte :=
  let v := w % 2 ^ nbits
  [BitVec.ofNat 8 v, BitVec.ofNat 8 (v / 2 ^ 8), BitVec.ofNat 8 (v / 2 ^ 16)]

/-- The instruction the decoder reads from those bytes, in the base table: the table of spec/opcode_table.json with both
parameters at their default (R74). -/
def decodeTableWord (nbits w : Nat) : Option Instr :=
  match decode .base (tableWordBytes nbits w) with
  | .ok (c, _) => some c.instr
  | .error _   => none

end Sys2Proof
end

