-- ==== Sys2Proof/Machine/State.lean ====
section
/-! DEFINITION. Machine/State.lean: everything the spec gives the machine (10_state.md summary table), as plain data,
and the two ways an operation can stop. -/

namespace Sys2Proof.Machine

/-- The eight independent one-bit flags, in the spec's order (R16). -/
structure Flags where
  c  : Bool
  z  : Bool
  i  : Bool
  d  : Bool
  b0 : Bool
  b1 : Bool
  v  : Bool
  n  : Bool
deriving DecidableEq, Repr

/-- Memory (R21, R40): the cells that do not read 0x00, in strictly rising order of address. -/
abbrev Memory := List Host.Cell

/-- The whole state. `cfg` is the model's own field: the parameters the machine was built with (R7), which no
operation changes (log entry 2). Every other field is an element of the summary table of 10_state.md. -/
structure State where
  cfg    : Config
  a      : Byte
  x      : Byte
  y      : Byte
  sp     : Word
  ip     : Word
  ipOvf  : Bool
  flags  : Flags
  halted : Bool
  eah    : Byte
  eal    : Byte
  t0     : Byte
  t1     : Byte
  queue  : List MicroOp
  mem    : Memory
deriving DecidableEq, Repr

/-- The kinds of `OutOfRangeAccess`: only the dereference of `IP` can occur (R191, R192). -/
inductive AccessKind where
  /-- The fetch unit is asked for a byte while `IP_OVF = 1` (R191). -/
  | ipDereference
deriving DecidableEq, Repr

/-- The two failures of the source (R190). Both are safe: they are the spec's own. -/
inductive Fault where
  /-- Raised by `FetchIP()` in a fetch-decode tick or in a FetchByte, FetchAddrLo or FetchAddrHi tick (R191), with the
  17-bit address 0x10000. Safe: the spec says the tick raises it and has no effect (R194). -/
  | outOfRangeAccess (kind : AccessKind) (address : BitVec 17)
  /-- Raised by the host operation `load_program` only, never by a tick (R193), with the length refused.
  Safe: the spec says it is raised before any write. -/
  | programTooLarge (len : Nat)
deriving DecidableEq, Repr

/-- What the model gives no meaning to. No instruction and no tick of this model ends in one. -/
inductive Refusal where
  /-- An arm of `exec` whose instruction has no meaning yet: none is left. Safe. -/
  | notModelled (mnemonic : String)
  /-- The host calls `load_program` while an instruction is in progress: outside the spec (R216, R223(e), treatment
  `refuse` of U15). Raised by `loadProgram` only. Safe. -/
  | loadDuringInstruction
deriving DecidableEq, Repr

/-- What an operation of the machine answers. -/
abbrev Result := Host.Outcome State Fault Refusal

/-- The machine right after reset: constructed with the default parameters (R28, R29) and then `reset()` (R31, R217), with
no program loaded, so that the vector cells read 0x00 and `IP` is 0x0000. `A`, `X`, `Y`, `SP`, the flags and the scratch
latches have no reset value in the spec (R30): zero here, DESIGN CHOICE, unsafe (log entry 1). -/
def State.reset : State :=
  { cfg := .base
    a := 0, x := 0, y := 0, sp := 0
    ip := 0x0000, ipOvf := false
    flags := { c := false, z := false, i := false, d := false, b0 := false, b1 := false, v := false, n := false }
    halted := false
    eah := 0, eal := 0, t0 := 0, t1 := 0
    queue := []
    mem := [] }

end Sys2Proof.Machine
end

