-- ==== Sys2Proof/Machine/Flags.lean ====
section
/-! DEFINITION. Machine/Flags.lean: the flag engine (42_flag_engine.md), and the flags as a byte for display (R18). -/

namespace Sys2Proof.Machine

/-- `SetZN(v)` (R120): `Z` says whether the byte is zero, `N` is its bit 7; no other flag is written (R123). -/
def Flags.setZN (v : Byte) (f : Flags) : Flags :=
  { f with z := v == 0x00, n := v.getLsbD 7 }

/-- The display order of R18: bit 0 `C`, 1 `Z`, 2 `I`, 3 `D`, 4 `B0`, 5 `B1`, 6 `V`, 7 `N`. The machine has no such
byte and no rule depends on it (D19). PRESUMED: the spec takes the order from general knowledge (log entry 10). -/
def Flags.statusByte (f : Flags) : Byte :=
  BitVec.ofBool f.n ++ BitVec.ofBool f.v ++ BitVec.ofBool f.b1 ++ BitVec.ofBool f.b0
    ++ BitVec.ofBool f.d ++ BitVec.ofBool f.i ++ BitVec.ofBool f.z ++ BitVec.ofBool f.c

end Sys2Proof.Machine
end

