-- ==== Sys2Proof/Machine/Ops.lean ====
section
/-! DEFINITION. Machine/Ops.lean: the named operations on memory, registers, the effective address pointer, the queue
and the instruction pointer, and the one way a tick fails. -/

namespace Sys2Proof.Machine

/-! ### Memory (20_memory.md) -/

/-- What a cell reads as when nothing has been written to it: memory is zero at construction (R28; log entry 6). -/
def Memory.unlisted : Byte := 0x00

/-- The byte at address `k`. -/
def Memory.get : Memory → Nat → Byte
  | [], _          => Memory.unlisted
  | (j, w) :: t, k => if k = j then w else Memory.get t k

/-- The memory without a listed cell at address `k`. -/
def Memory.erase (m : Memory) (k : Nat) : Memory :=
  m.filter fun c => c.1 != k

/-- The memory with a cell at address `k` listed, in its place in the rising order. -/
def Memory.insert : Memory → Nat → Byte → Memory
  | [], k, v          => [(k, v)]
  | (j, w) :: t, k, v => if k < j then (k, v) :: (j, w) :: t else (j, w) :: Memory.insert t k v

/-- The memory with byte `v` at address `k`, in canonical form when it was before. -/
def Memory.put (m : Memory) (k : Nat) (v : Byte) : Memory :=
  if v = Memory.unlisted then Memory.erase m k else Memory.insert (Memory.erase m k) k v

/-- `MemRead(addr, 1)` (R41): no state changes, no failure. -/
def Memory.read (m : Memory) (addr : Word) : Byte := Memory.get m addr.toNat

/-- `MemWrite(addr, 1, v)` (R42): one cell changes, no failure. -/
def Memory.write (m : Memory) (addr : Word) (v : Byte) : Memory := Memory.put m addr.toNat v

/-- Bytes written at consecutive rising addresses from `k`; an address past the top of memory does not exist and is
not written. -/
def Memory.writeBytes : Memory → Nat → List Byte → Memory
  | m, _, []      => m
  | m, k, b :: bs => Memory.writeBytes (if k < memSize then Memory.put m k b else m) (k + 1) bs

/-- Addresses rise strictly from `lo` on, lie inside memory (R40), and no listed cell reads as an unlisted one. -/
def Memory.wfFrom : Nat → Memory → Bool
  | _, []           => true
  | lo, (k, w) :: t => decide (lo ≤ k) && decide (k < memSize) && w != Memory.unlisted && Memory.wfFrom (k + 1) t

/-- The canonical form of memory. -/
def Memory.wf (m : Memory) : Bool := Memory.wfFrom 0 m

/-! ### Words made of bytes (R9, R44) -/

/-- `hi:lo`, the word with high byte `hi` and low byte `lo` (R9). -/
def wordOf (hi lo : Byte) : Word := hi ++ lo

/-- The word at `lo` and `hi` addresses, low byte first (R44): the reset vector is read so. -/
def Memory.readWord (m : Memory) (loAddr hiAddr : Word) : Word :=
  wordOf (m.read hiAddr) (m.read loAddr)

/-- Bits 7:0 of a word. -/
def lowByte (w : Word) : Byte := w.extractLsb' 0 8

/-- Bits 15:8 of a word. -/
def highByte (w : Word) : Byte := w.extractLsb' 8 8

/-! ### Registers -/

/-- The selector of a general register. -/
def regSel : Reg → Sel
  | .a => .a
  | .x => .x
  | .y => .y

/-- `arch(s)` (R9): the general registers, not the hidden latches. -/
def isArch : Sel → Bool
  | .a  => true
  | .x  => true
  | .y  => true
  | .t0 => false
  | .t1 => false

/-- `x[s]` (R9). -/
def State.readSel (s : State) : Sel → Byte
  | .a  => s.a
  | .x  => s.x
  | .y  => s.y
  | .t0 => s.t0
  | .t1 => s.t1

/-- `x[s] <- v` (R9, R11): the one place a register or a latch is written. -/
def State.writeSel (s : State) (t : Sel) (v : Byte) : State :=
  match t with
  | .a  => { s with a := v }
  | .x  => { s with x := v }
  | .y  => { s with y := v }
  | .t0 => { s with t0 := v }
  | .t1 => { s with t1 := v }

/-- The flags after `SetZN(v)` (R120). -/
def State.setZN (s : State) (v : Byte) : State := { s with flags := s.flags.setZN v }

/-- `x[t] <- v; if arch(t) then SetZN(v)` (R128, R135): a write of a byte to a target, which is a qualifying operation
exactly when the target is a general register (R121). -/
def State.writeTarget (s : State) (t : Sel) (v : Byte) : State :=
  if isArch t then (s.writeSel t v).setZN v else s.writeSel t v

/-- `val(src)` (R9), read at the tick the micro-op executes (R141). -/
def State.srcVal (s : State) : Src → Byte
  | .const b => b
  | .reg r   => s.readSel r

/-- `HALTED <- v` (R19). -/
def State.setHalted (s : State) (v : Bool) : State := { s with halted := v }

/-- `M[addr] <- v` in the state (R42). -/
def State.store (s : State) (addr : Word) (v : Byte) : State := { s with mem := s.mem.write addr v }

/-! ### The effective address pointer (R22) -/

/-- `EAP = EAH:EAL` (R22). -/
def State.eap (s : State) : Word := wordOf s.eah s.eal

/-- `EAL <- v`, the high half preserved (R22). -/
def State.setEal (s : State) (v : Byte) : State := { s with eal := v }

/-- `EAH <- v`, the low half preserved (R22). -/
def State.setEah (s : State) (v : Byte) : State := { s with eah := v }

/-! ### The micro-op queue (R24, R125) -/

/-- `enqueue(ops)` (R125): appended at the back, in order. -/
def State.enqueue (s : State) (ops : List MicroOp) : State := { s with queue := s.queue ++ ops }

/-- `Q <- Q without its front` (R104). -/
def State.dequeue (s : State) : State := { s with queue := s.queue.tail }

/-! ### The instruction pointer (R13 to R15, R100, R101) -/

/-- `IP` and `IP_OVF` as one number (R15): the address of the next byte the fetch unit reads. -/
def State.ip17 (s : State) : Nat := (if s.ipOvf then memSize else 0) + s.ip.toNat

/-- `s <- IP +17 1; IP <- s[15:0]; IP_OVF <- s[16]` (R101). -/
def State.advanceIp (s : State) : State :=
  let sum : BitVec 17 := s.ip.setWidth 17 + 1
  { s with ip := sum.extractLsb' 0 16, ipOvf := sum.getLsbD 16 }

/-- `raise OutOfRangeAccess(ip_dereference)` (R191). This is the whole of what the hardware does on a failure: the
tick has no effect, nothing is saved, no mode or mask changes and control goes to no handler (R194, R198). There is no
trap entry and no trap return; the way on is the host's `reset()` (R195, `hostReset`). -/
def raiseIpDereference : Result := .fault (.outOfRangeAccess .ipDereference 0x10000)

/-- `b <- FetchIP()`, then `k` with the byte and the state after the fetch (R101): the check comes first, and when it
raises nothing has changed. -/
def fetchIp (s : State) (k : Byte → State → Result) : Result :=
  if s.ipOvf then raiseIpDereference else k (s.mem.read s.ip) s.advanceIp

end Sys2Proof.Machine
end

