-- ==== Sys2Proof/Machine/Operands.lean ====
section
/-! DEFINITION. Machine/Operands.lean: the effective address resolver (40_addressing.md): the micro-ops each addressing
mode enqueues (R137, R138), and the mode as one function of its operands (R94). -/

namespace Sys2Proof.Machine

/-! ### The sequences of R137 -/

/-- The first micro-ops of the zero-page modes: the operand byte is the low half, the high half is forced to 0 (R82). -/
def zeroPageOps : List MicroOp := [.fetchAddrLo, .setAddrHi (.const 0x00)]

/-- The first micro-ops of the absolute modes: two operand bytes, low then high (R85). -/
def absoluteOps : List MicroOp := [.fetchAddrLo, .fetchAddrHi]

/-- The pointer phase of the indirect modes: the low byte to `T0`, the address stepped inside the zero page, the high
byte to `T1`, and both moved to `EAP` (R137, R23). -/
def pointerOps : List MicroOp :=
  [.readMem .t0, .addAddrLo (.const 0x01), .readMem .t1, .setAddrLo (.reg .t0), .setAddrHi (.reg .t1)]

/-- The micro-ops of a mode that leave its effective address in `EAP`: each row of R137 without its last micro-op. -/
def addressOps : Mode → List MicroOp
  | .imp => []
  | .imm => []
  | .zp  => zeroPageOps
  | .zpx => zeroPageOps ++ [.addAddrLo (.reg .x)]
  | .zpy => zeroPageOps ++ [.addAddrLo (.reg .y)]
  | .abs => absoluteOps
  | .abx => absoluteOps ++ [.addAddrLo (.reg .x)]
  | .aby => absoluteOps ++ [.addAddrLo (.reg .y)]
  | .izx => zeroPageOps ++ [.addAddrLo (.reg .x)] ++ pointerOps
  | .izy => zeroPageOps ++ pointerOps ++ [.addAddrLo (.reg .y)]

/-- `load_seq(m, t)` (R137). Implied has no operand, so no load has it (R90) and it enqueues nothing (log entry 13). -/
def loadSeq (m : Mode) (t : Reg) : List MicroOp :=
  match m with
  | .imp => []
  | .imm => [.fetchByte (regSel t)]
  | _    => addressOps m ++ [.readMem (regSel t)]

/-- `store_seq(m, s)` (R138). There is no store in Immediate or Implied mode, and they enqueue nothing (log
entry 13). -/
def storeSeq (m : Mode) (r : Reg) : List MicroOp :=
  match m with
  | .imp => []
  | .imm => []
  | _    => addressOps m ++ [.writeMem (regSel r)]

/-- What the decoder enqueues for a table entry (R103). -/
def entrySeq : Entry → List MicroOp
  | .unmapped     => []
  | .halt         => []
  | .load t m     => loadSeq m t
  | .store r m    => storeSeq m r
  | .transfer _ _ => []

/-- The ticks of an instruction (R230): the fetch-decode tick and one tick for each micro-op. -/
def instrTicks (i : Instr) : Nat := 1 + (entrySeq i.entry).length

/-! ### The modes as functions (R81 to R94) -/

/-- The address in the zero page at which an indirect mode finds the low byte of its pointer (R88, R89). -/
def pointerAddress (m : Mode) (b1 x : Byte) : Option Byte :=
  match m with
  | .izx => some (b1 + x)
  | .izy => some b1
  | _    => none

/-- The low byte of the pointer at `ptr` in the zero page (R88, R89). -/
def pointerLo (mem : Memory) (ptr : Byte) : Byte := mem.read (wordOf 0x00 ptr)

/-- The high byte of the pointer at `ptr`: at the next address, wrapped inside the zero page (R88, R89). -/
def pointerHi (mem : Memory) (ptr : Byte) : Byte := mem.read (wordOf 0x00 (ptr + 1))

/-- `EA(m)` (R94): the effective address, from the operand bytes, the index registers and memory. Immediate and Implied
have none (R81, R90). No addition carries into the high byte (R92). -/
def effectiveAddress (m : Mode) (b1 b2 x y : Byte) (mem : Memory) : Option Word :=
  match m with
  | .imp => none
  | .imm => none
  | .zp  => some (wordOf 0x00 b1)
  | .zpx => some (wordOf 0x00 (b1 + x))
  | .zpy => some (wordOf 0x00 (b1 + y))
  | .abs => some (wordOf b2 b1)
  | .abx => some (wordOf b2 (b1 + x))
  | .aby => some (wordOf b2 (b1 + y))
  | .izx => some (wordOf (pointerHi mem (b1 + x)) (pointerLo mem (b1 + x)))
  | .izy => some (wordOf (pointerHi mem b1) (pointerLo mem b1 + y))

end Sys2Proof.Machine
end

