-- ==== Sys2Proof/Machine/Load.lean ====
section
/-! DEFINITION. Machine/Load.lean: the load family LDA, LDX, LDY (44_load.md): the handler each of the 18 opcodes has in the dispatch table.
A handler runs in the fetch-decode tick, after the opcode byte has been fetched, and enqueues the micro-ops of its mode with
its target bound into the last one (R103, R139). The rest of the instruction's effect is those micro-ops, which are in the
state and are executed by the next ticks (R104); what the whole instruction does is `netEffect` (R168). -/

namespace Sys2Proof.Machine

/-- The handler of `Load(t, m)`: `enqueue(load_seq(m, t))` (R103). -/
def loadHandler (m : Mode) (t : Reg) (s : State) : Result := .next (s.enqueue (loadSeq m t))

/-- LDA Immediate, `A9 b1` (R150). -/
def execLdaImm (s : State) : Result := loadHandler .imm .a s

/-- LDA Zero Page, `A5 b1` (R151). -/
def execLdaZp (s : State) : Result := loadHandler .zp .a s

/-- LDA Zero Page,X, `B5 b1` (R152). -/
def execLdaZpx (s : State) : Result := loadHandler .zpx .a s

/-- LDA Absolute, `AD b1 b2` (R153). -/
def execLdaAbs (s : State) : Result := loadHandler .abs .a s

/-- LDA Absolute,X, `BD b1 b2` (R154). -/
def execLdaAbx (s : State) : Result := loadHandler .abx .a s

/-- LDA Absolute,Y, `B9 b1 b2` (R155). -/
def execLdaAby (s : State) : Result := loadHandler .aby .a s

/-- LDA (Indirect,X), `A1 b1` (R156). -/
def execLdaIzx (s : State) : Result := loadHandler .izx .a s

/-- LDA (Indirect),Y, `B1 b1` (R157). -/
def execLdaIzy (s : State) : Result := loadHandler .izy .a s

/-- LDX Immediate, `A2 b1` (R158). -/
def execLdxImm (s : State) : Result := loadHandler .imm .x s

/-- LDX Zero Page, `A6 b1` (R159). -/
def execLdxZp (s : State) : Result := loadHandler .zp .x s

/-- LDX Zero Page,Y, `B6 b1` (R160). -/
def execLdxZpy (s : State) : Result := loadHandler .zpy .x s

/-- LDX Absolute, `AE b1 b2` (R161). -/
def execLdxAbs (s : State) : Result := loadHandler .abs .x s

/-- LDX Absolute,Y, `BE b1 b2` (R162). -/
def execLdxAby (s : State) : Result := loadHandler .aby .x s

/-- LDY Immediate, `A0 b1` (R163). -/
def execLdyImm (s : State) : Result := loadHandler .imm .y s

/-- LDY Zero Page, `A4 b1` (R164). -/
def execLdyZp (s : State) : Result := loadHandler .zp .y s

/-- LDY Zero Page,X, `B4 b1` (R165). -/
def execLdyZpx (s : State) : Result := loadHandler .zpx .y s

/-- LDY Absolute, `AC b1 b2` (R166). -/
def execLdyAbs (s : State) : Result := loadHandler .abs .y s

/-- LDY Absolute,X, `BC b1 b2` (R167). -/
def execLdyAbx (s : State) : Result := loadHandler .abx .y s

end Sys2Proof.Machine
end

