-- ==== Sys2Proof/Machine/Store.lean ====
section
/-! DEFINITION. Machine/Store.lean: the stores STA, STX, STY (45_ext_store_transfer.md): the handlers of the 13 opcodes mapped when
`EXT_STORE` is true. Whether an opcode byte reaches its handler is the decoder's matter (R102, R170), so a handler does not
look at the parameter (log entry 12). As for a load, the rest of the effect is the micro-ops enqueued (R103, R138, R188). -/

namespace Sys2Proof.Machine

/-- The handler of `Store(r, m)`: `enqueue(store_seq(m, r))` (R103). -/
def storeHandler (m : Mode) (r : Reg) (s : State) : Result := .next (s.enqueue (storeSeq m r))

/-- STA Zero Page, `85 b1` (R171). -/
def execStaZp (s : State) : Result := storeHandler .zp .a s

/-- STA Zero Page,X, `95 b1` (R172). -/
def execStaZpx (s : State) : Result := storeHandler .zpx .a s

/-- STA Absolute, `8D b1 b2` (R173). -/
def execStaAbs (s : State) : Result := storeHandler .abs .a s

/-- STA Absolute,X, `9D b1 b2` (R174). -/
def execStaAbx (s : State) : Result := storeHandler .abx .a s

/-- STA Absolute,Y, `99 b1 b2` (R175). -/
def execStaAby (s : State) : Result := storeHandler .aby .a s

/-- STA (Indirect,X), `81 b1` (R176). -/
def execStaIzx (s : State) : Result := storeHandler .izx .a s

/-- STA (Indirect),Y, `91 b1` (R177). -/
def execStaIzy (s : State) : Result := storeHandler .izy .a s

/-- STX Zero Page, `86 b1` (R178). -/
def execStxZp (s : State) : Result := storeHandler .zp .x s

/-- STX Zero Page,Y, `96 b1` (R179). -/
def execStxZpy (s : State) : Result := storeHandler .zpy .x s

/-- STX Absolute, `8E b1 b2` (R180). -/
def execStxAbs (s : State) : Result := storeHandler .abs .x s

/-- STY Zero Page, `84 b1` (R181). -/
def execStyZp (s : State) : Result := storeHandler .zp .y s

/-- STY Zero Page,X, `94 b1` (R182). -/
def execStyZpx (s : State) : Result := storeHandler .zpx .y s

/-- STY Absolute, `8C b1 b2` (R183). -/
def execStyAbs (s : State) : Result := storeHandler .abs .y s

end Sys2Proof.Machine
end

