-- ==== Sys2Proof/Machine/System.lean ====
section
/-! DEFINITION. Machine/System.lean: the halt and the unmapped no-op (41_dispatch.md R106, R107), which complete in the fetch-decode tick. -/

namespace Sys2Proof.Machine

/-- HLT, opcode 0xFF (R106): `HALTED <- 1`; registers, flags, memory and the queue are unchanged. -/
def execHlt (s : State) : Result := .next (s.setHalted true)

/-- An unmapped opcode (R68, R107): nothing beyond the fetch of the opcode byte. -/
def execUnmapped (s : State) : Result := .next s

end Sys2Proof.Machine
end

