-- ==== Sys2Proof/Machine/Transfer.lean ====
section
/-! DEFINITION. Machine/Transfer.lean: the register transfers (45_ext_store_transfer.md): the handlers of the 4 opcodes mapped when
`EXT_TRANSFER` is true. They complete in the fetch-decode tick and enqueue nothing (R103, R189). -/

namespace Sys2Proof.Machine

/-- `x[t] <- x[f]; SetZN(x[t])` (R103, R189): the source register is unchanged. -/
def transfer (f t : Reg) (s : State) : State := s.writeTarget (regSel t) (s.readSel (regSel f))

/-- TAX, `AA` (R184). -/
def execTax (s : State) : Result := .next (transfer .a .x s)

/-- TAY, `A8` (R185). -/
def execTay (s : State) : Result := .next (transfer .a .y s)

/-- TXA, `8A` (R186). -/
def execTxa (s : State) : Result := .next (transfer .x .a s)

/-- TYA, `98` (R187). -/
def execTya (s : State) : Result := .next (transfer .y .a s)

end Sys2Proof.Machine
end

