-- ==== Sys2Proof/Machine/Dispatch.lean ====
section
/-! DEFINITION. Machine/Dispatch.lean: the handler of each instruction (R103, R105), in the state after the opcode byte has
been fetched. -/

namespace Sys2Proof.Machine

def exec (i : Instr) (s : State) : Host.Outcome State Fault Refusal :=
  match i with
  | .ldaImm => Sys2Proof.Machine.execLdaImm s
  | .ldaZp => Sys2Proof.Machine.execLdaZp s
  | .ldaZpx => Sys2Proof.Machine.execLdaZpx s
  | .ldaAbs => Sys2Proof.Machine.execLdaAbs s
  | .ldaAbx => Sys2Proof.Machine.execLdaAbx s
  | .ldaAby => Sys2Proof.Machine.execLdaAby s
  | .ldaIzx => Sys2Proof.Machine.execLdaIzx s
  | .ldaIzy => Sys2Proof.Machine.execLdaIzy s
  | .ldxImm => Sys2Proof.Machine.execLdxImm s
  | .ldxZp => Sys2Proof.Machine.execLdxZp s
  | .ldxZpy => Sys2Proof.Machine.execLdxZpy s
  | .ldxAbs => Sys2Proof.Machine.execLdxAbs s
  | .ldxAby => Sys2Proof.Machine.execLdxAby s
  | .ldyImm => Sys2Proof.Machine.execLdyImm s
  | .ldyZp => Sys2Proof.Machine.execLdyZp s
  | .ldyZpx => Sys2Proof.Machine.execLdyZpx s
  | .ldyAbs => Sys2Proof.Machine.execLdyAbs s
  | .ldyAbx => Sys2Proof.Machine.execLdyAbx s
  | .hlt => Sys2Proof.Machine.execHlt s
  | .unmapped _ => Sys2Proof.Machine.execUnmapped s
  | .staZp => Sys2Proof.Machine.execStaZp s
  | .staZpx => Sys2Proof.Machine.execStaZpx s
  | .staAbs => Sys2Proof.Machine.execStaAbs s
  | .staAbx => Sys2Proof.Machine.execStaAbx s
  | .staAby => Sys2Proof.Machine.execStaAby s
  | .staIzx => Sys2Proof.Machine.execStaIzx s
  | .staIzy => Sys2Proof.Machine.execStaIzy s
  | .stxZp => Sys2Proof.Machine.execStxZp s
  | .stxZpy => Sys2Proof.Machine.execStxZpy s
  | .stxAbs => Sys2Proof.Machine.execStxAbs s
  | .styZp => Sys2Proof.Machine.execStyZp s
  | .styZpx => Sys2Proof.Machine.execStyZpx s
  | .styAbs => Sys2Proof.Machine.execStyAbs s
  | .tax => Sys2Proof.Machine.execTax s
  | .tay => Sys2Proof.Machine.execTay s
  | .txa => Sys2Proof.Machine.execTxa s
  | .tya => Sys2Proof.Machine.execTya s

end Sys2Proof.Machine
end

