-- ==== Sys2Proof/Machine/MicroOps.lean ====
section
/-! DEFINITION. Machine/MicroOps.lean: what each of the nine micro-ops does when it executes (43_microops.md R128 to R136),
and the memory cells it reads and writes (R46). The queue is not touched here: the tick dequeues (R104). -/

namespace Sys2Proof.Machine

/-- R128. -/
def microFetchByte (t : Sel) (s : State) : Result :=
  fetchIp s fun b s' => .next (s'.writeTarget t b)

/-- R129: `EAH` is preserved. -/
def microFetchAddrLo (s : State) : Result :=
  fetchIp s fun b s' => .next (s'.setEal b)

/-- R130: `EAL` is preserved. -/
def microFetchAddrHi (s : State) : Result :=
  fetchIp s fun b s' => .next (s'.setEah b)

/-- R131. -/
def microSetAddrLo (src : Src) (s : State) : Result := .next (s.setEal (s.srcVal src))

/-- R132. -/
def microSetAddrHi (src : Src) (s : State) : Result := .next (s.setEah (s.srcVal src))

/-- R133: modulo 256, no carry into `EAH`, no flag. -/
def microAddAddrLo (src : Src) (s : State) : Result := .next (s.setEal (s.eal + s.srcVal src))

/-- R134: modulo 256, `EAL` unchanged. No sequence contains it. -/
def microAddAddrHi (src : Src) (s : State) : Result := .next (s.setEah (s.eah + s.srcVal src))

/-- R135. -/
def microReadMem (t : Sel) (s : State) : Result := .next (s.writeTarget t (s.mem.read s.eap))

/-- R136: no flag. -/
def microWriteMem (r : Sel) (s : State) : Result := .next (s.store s.eap (s.readSel r))

/-- `execute(u)` (R104): the micro-op's rule. -/
def execute (u : MicroOp) (s : State) : Result :=
  match u with
  | .fetchByte t     => microFetchByte t s
  | .fetchAddrLo     => microFetchAddrLo s
  | .fetchAddrHi     => microFetchAddrHi s
  | .setAddrLo src   => microSetAddrLo src s
  | .setAddrHi src   => microSetAddrHi src s
  | .addAddrLo src   => microAddAddrLo src s
  | .addAddrHi src   => microAddAddrHi src s
  | .readMem t       => microReadMem t s
  | .writeMem r      => microWriteMem r s

/-- The micro-ops that call `FetchIP()`: the only ones that can raise (R127). -/
def microFetches : MicroOp → Bool
  | .fetchByte _ => true
  | .fetchAddrLo => true
  | .fetchAddrHi => true
  | .setAddrLo _ => false
  | .setAddrHi _ => false
  | .addAddrLo _ => false
  | .addAddrHi _ => false
  | .readMem _   => false
  | .writeMem _  => false

/-- The cells the fetch unit reads when it is asked for a byte: none when the check raises (R101). -/
def fetchReads (s : State) : List Word := if s.ipOvf then [] else [s.ip]

/-- The cells a micro-op reads (R46). -/
def microReads (u : MicroOp) (s : State) : List Word :=
  match u with
  | .fetchByte _ => fetchReads s
  | .fetchAddrLo => fetchReads s
  | .fetchAddrHi => fetchReads s
  | .readMem _   => [s.eap]
  | _            => []

/-- The cells a micro-op writes (R46). -/
def microWrites (u : MicroOp) (s : State) : List Word :=
  match u with
  | .writeMem _ => [s.eap]
  | _           => []

end Sys2Proof.Machine
end

