-- ==== Sys2Proof/Machine/Tick.lean ====
section
/-! DEFINITION. Machine/Tick.lean: the tick (41_dispatch.md R104, R105), the machine's only state transition: one queued
micro-op if there is one, else one fetch-decode. -/

namespace Sys2Proof.Machine

/-- `fetch_decode()` (R105): fetch the opcode byte, look it up, run its handler. -/
def fetchDecode (s : State) : Result :=
  fetchIp s fun op s' => exec (decodeOpcode s'.cfg op) s'

/-- `execute(u)` and then `Q <- Q without its front`, only if it did not raise (R104). -/
def executeFront (u : MicroOp) (s : State) : Result :=
  match execute u s with
  | .next s'   => .next s'.dequeue
  | .fault f   => .fault f
  | .refused r => .refused r

/-- `step()` of the spec (R104, R219). It does not read `HALTED`. -/
def tick (s : State) : Result :=
  match s.queue with
  | u :: _ => executeFront u s
  | []     => fetchDecode s

/-- The decoder's two states (R20). -/
inductive DecoderPhase where
  | fetching | executing
deriving DecidableEq, Repr

/-- The decoder's state is read off the queue (R20, R102). -/
def State.phase (s : State) : DecoderPhase := if s.queue.isEmpty then .fetching else .executing

/-- The cells the next tick reads (R46). -/
def tickReads (s : State) : List Word :=
  match s.queue with
  | u :: _ => microReads u s
  | []     => fetchReads s

/-- The cells the next tick writes (R46). -/
def tickWrites (s : State) : List Word :=
  match s.queue with
  | u :: _ => microWrites u s
  | []     => []

/-- Whether the next tick calls `FetchIP()` (R108(b), R191). -/
def tickFetches (s : State) : Bool :=
  match s.queue with
  | u :: _ => microFetches u
  | []     => true

/-- The bytes of an instruction placed where the next tick fetches: at `IP`, with no instruction in progress and
`IP_OVF = 0`. A byte that would lie past the top of memory has no cell. -/
def State.placeInstruction (s : State) (bytes : List Byte) : State :=
  { s with queue := [], ipOvf := false, mem := s.mem.writeBytes s.ip.toNat bytes }

end Sys2Proof.Machine
end

