-- ==== Sys2Proof/Machine/Step.lean ====
section
/-! DEFINITION. Machine/Step.lean: the step the host runs is the tick (R104, R219), and the placing of one instruction
where the next step fetches it. -/

namespace Sys2Proof.Machine

/-- One step is one tick, the machine's only state transition (R104; conflict C7; log entry 3). -/
def step (s : State) : Host.Outcome State Fault Refusal := tick s

/-- `s` with the instruction of table word `w` stored where `step` fetches its next instruction (log entry 4). -/
def State.withFetchWord (s : State) (nbits w : Nat) : State := s.placeInstruction (tableWordBytes nbits w)

end Sys2Proof.Machine
end

