-- ==== Sys2Proof/Machine/HostOps.lean ====
section
/-! DEFINITION. Machine/HostOps.lean: the four operations through which the host acts on the core (R215): `load_program`,
`reset`, `step` (Machine/Step.lean) and `run`; power-on (R218), the launch preconditions (R223), the boot sequence (R221) and
what the host can observe (R27). -/

namespace Sys2Proof.Machine

/-! ### Power-on -/

/-- Construction (R28, R29, R30, R218): memory zero, queue empty, `IP_OVF = 0`, and the open values `INIT`. -/
def State.powerOn (cfg : Config) (v : Init) : State :=
  { cfg := cfg
    a := v.a, x := v.x, y := v.y, sp := v.sp
    ip := v.ip, ipOvf := false
    flags := { c := v.c, z := v.z, i := v.i, d := v.d, b0 := v.b0, b1 := v.b1, v := v.v, n := v.n }
    halted := v.halted
    eah := v.eah, eal := v.eal, t0 := v.t0, t1 := v.t1
    queue := []
    mem := [] }

/-! ### `reset` -/

/-- `reset()` (R31, R217): `IP` from the vector, `HALTED`, `Q` and `IP_OVF` cleared, everything else unchanged. It is the
only way on after a fault (R195), and it abandons an instruction in progress (R229). -/
def hostReset (s : State) : State :=
  { s with ip := s.mem.readWord resetVectorLo resetVectorHi, halted := false, queue := [], ipOvf := false }

/-! ### `load_program` -/

/-- The memory after a program is written: the bytes from the origin, and then the reset vector (R216). -/
def Memory.loadImage (m : Memory) (bytes : List Byte) : Memory :=
  ((m.writeBytes origin.toNat bytes).write resetVectorLo (lowByte origin)).write resetVectorHi (highByte origin)

/-- `load_program(bytes)` (R216): the capacity check before any write (R193). While an instruction is in progress the
call is outside the spec and is refused (R223(e), U15; log entry 5). -/
def loadProgram (bytes : List Byte) (s : State) : Result :=
  if s.queue.isEmpty then
    if maxProgramLen < bytes.length then .fault (.programTooLarge bytes.length)
    else .next { s with mem := s.mem.loadImage bytes }
  else .refused .loadDuringInstruction

/-! ### `run` -/

/-- How a run stands after a number of ticks (R111, R231). -/
inductive RunResult where
  /-- `HALTED = 1`: a final state. -/
  | halted (s : State)
  /-- A tick raised: the fault, and the state before the faulting tick. Not a final state of the program (R194). -/
  | faulted (f : Fault) (s : State)
  /-- A tick was refused: no tick of this model is. -/
  | refused (r : Refusal) (s : State)
  /-- The ticks allowed are used up and the run has not ended. -/
  | unfinished (s : State)
deriving DecidableEq, Repr

/-- `run()` (R220), cut off after `n` ticks (log entry 9): `while HALTED = 0 do step()`, the test first. -/
def run : Nat → State → RunResult
  | 0, s     => if s.halted then .halted s else .unfinished s
  | n + 1, s =>
    if s.halted then .halted s
    else match step s with
      | .next s'   => run n s'
      | .fault f   => .faulted f s
      | .refused r => .refused r s

/-- The ticks after an instruction's fetch-decode tick, one for each micro-op in the queue (R104, R108(c)). -/
def finish (n : Nat) (s : State) : Result :=
  match n with
  | 0     => .next s
  | n + 1 =>
    match step s with
    | .next s'   => finish n s'
    | .fault f   => .fault f
    | .refused r => .refused r

/-- The cells read by the next `n` ticks, in order (R46, the last column of R137). -/
def readLog : Nat → State → List Word
  | 0, _     => []
  | n + 1, s =>
    tickReads s ++ (match step s with
      | .next s' => readLog n s'
      | _        => [])

/-! ### Launch preconditions and the boot sequence -/

/-- The names of the flags (R16). -/
inductive FlagName where
  | c | z | i | d | b0 | b1 | v | n
deriving DecidableEq, Repr

/-- One flag set to a value. -/
def Flags.set (f : Flags) (name : FlagName) (b : Bool) : Flags :=
  match name with
  | .c  => { f with c := b }
  | .z  => { f with z := b }
  | .i  => { f with i := b }
  | .d  => { f with d := b }
  | .b0 => { f with b0 := b }
  | .b1 => { f with b1 := b }
  | .v  => { f with v := b }
  | .n  => { f with n := b }

/-- What the host may set as a launch precondition (R223(b)): a general register, `SP`, a flag, a cell of memory. -/
inductive HostWrite where
  | reg (r : Reg) (v : Byte)
  | sp (v : Word)
  | flag (name : FlagName) (b : Bool)
  | cell (addr : Word) (v : Byte)
deriving DecidableEq, Repr

/-- One launch precondition set. When the host may do so is a premise about the host (R223; log entry 8). -/
def hostWrite (w : HostWrite) (s : State) : State :=
  match w with
  | .reg r v     => s.writeSel (regSel r) v
  | .sp v        => { s with sp := v }
  | .flag name b => { s with flags := s.flags.set name b }
  | .cell addr v => s.store addr v

/-- Launch preconditions set in order. -/
def hostWrites : List HostWrite → State → State
  | [], s      => s
  | w :: ws, s => hostWrites ws (hostWrite w s)

/-- The boot sequence up to the first tick (R221): construct, `load_program`, preconditions, `reset`. -/
def boot (cfg : Config) (v : Init) (program : List Byte) (pre : List HostWrite) : Result :=
  match loadProgram program (State.powerOn cfg v) with
  | .next s    => .next (hostReset (hostWrites pre s))
  | .fault f   => .fault f
  | .refused r => .refused r

/-! ### Observation -/

/-- What the host can read (R27). -/
structure Observable where
  a      : Byte
  x      : Byte
  y      : Byte
  ip     : Word
  sp     : Word
  flags  : Flags
  halted : Bool
  mem    : Memory
deriving DecidableEq, Repr

/-- The observable part of the state; `EAP`, `T0`, `T1`, `Q`, `IP_OVF` are hidden (R27). -/
def State.observe (s : State) : Observable :=
  { a := s.a, x := s.x, y := s.y, ip := s.ip, sp := s.sp, flags := s.flags, halted := s.halted, mem := s.mem }

end Sys2Proof.Machine
end

