-- ==== Sys2Proof/Machine/NetEffect.lean ====
section
/-! DEFINITION. Machine/NetEffect.lean: each instruction as ONE step, the immediate design (R6, R168, R188, R189, R106, R107):
what the fetch-decode tick and the micro-ops it enqueues do together. It is written from the "Net effect" lines, not from
the sequences; that the two agree (R140) is a statement, in Certificates/Slice0. Every function here is applied to the
state after the opcode byte has been fetched, so that the first operand byte is at `IP`. -/

namespace Sys2Proof.Machine

/-- `b1`, the byte after the opcode byte. -/
def State.operand1 (s : State) : Byte := s.mem.read s.ip

/-- `b2`, the byte after `b1`. -/
def State.operand2 (s : State) : Byte := s.mem.read (s.ip + 1)

/-- `EA(m)` for the operand bytes, index registers and memory of the state (R94). -/
def State.ea (s : State) (m : Mode) : Option Word :=
  effectiveAddress m s.operand1 s.operand2 s.x s.y s.mem

/-- The state with `n` bytes consumed by the fetch unit (R14). -/
def State.skip (s : State) : Nat → State
  | 0     => s
  | n + 1 => s.advanceIp.skip n

/-- What the address phase of a mode leaves (R140, last part): the operand bytes consumed, the effective address in `EAP`,
and, in the indirect modes, the pointer's two bytes in `T0` and `T1`. -/
def State.resolve (s : State) (m : Mode) (ea : Word) : State :=
  let s' := ((s.skip m.operandBytes).setEah (highByte ea)).setEal (lowByte ea)
  match pointerAddress m s.operand1 s.x with
  | some ptr => (s'.writeSel .t0 (pointerLo s.mem ptr)).writeSel .t1 (pointerHi s.mem ptr)
  | none     => s'

/-- A load as one step (R168): the operand byte itself in Immediate, else the byte at the effective address. -/
def netLoad (m : Mode) (t : Reg) (s : State) : State :=
  match m, s.ea m with
  | .imm, _     => (s.skip 1).writeTarget (regSel t) s.operand1
  | _, some ea  => (s.resolve m ea).writeTarget (regSel t) (s.mem.read ea)
  | _, none     => s

/-- A store as one step (R188). -/
def netStore (m : Mode) (r : Reg) (s : State) : State :=
  match s.ea m with
  | some ea => (s.resolve m ea).store ea (s.readSel (regSel r))
  | none    => s

/-- The "Net effect" line of a table entry. -/
def netEffect (e : Entry) (s : State) : State :=
  match e with
  | .unmapped     => s
  | .halt         => s.setHalted true
  | .load t m     => netLoad m t s
  | .store r m    => netStore m r s
  | .transfer f t => transfer f t s

end Sys2Proof.Machine
end

