-- ==== Sys2Proof/WellFormed.lean ====
section
/-! DEFINITION. WellFormed.lean: which instructions exist in a machine built with given parameters (R66, R67, R170), and
which operand lists belong to them (R61). Each check is a Bool; Tests/Slice0.lean holds an ill-formed term for each. -/

namespace Sys2Proof

/-- An instruction exists in the machine: a store or transfer only under its parameter (R170), an `unmapped` only for a
byte that nothing else is mapped to (R66 last row, R107). -/
def Instr.wf (cfg : Config) : Instr → Bool
  | .unmapped op => !(mappedOpcodes cfg).contains op
  | i =>
    match i.entry with
    | .store _ _    => cfg.extStore
    | .transfer _ _ => cfg.extTransfer
    | _             => true

/-- An instruction with its operand bytes: the instruction exists, and it has as many operand bytes as its mode
consumes (R61). -/
def Code.wf (cfg : Config) (c : Code) : Bool :=
  c.instr.wf cfg && c.operands.length == c.instr.mode.operandBytes

end Sys2Proof
end

