-- ==== Sys2Proof/Safety.lean ====
section
/-! DEFINITION. Safety.lean: the terms the statements use: what it is for an instruction to complete, the conditions under
which it does, and the invariant of the machine. -/

namespace Sys2Proof.Machine

/-- The state is at an instruction boundary (00_scope.md glossary, R24): the next tick is a fetch-decode. -/
def State.Boundary (s : State) : Prop := s.queue = []

/-- The next `n` bytes from `IP` lie inside memory, so that the fetch unit can deliver them (R15, R101, R140). -/
def State.BytesFit (s : State) (n : Nat) : Prop := s.ip17 + n ≤ memSize

/-- The condition under which instruction `i`, its opcode byte already fetched, executes normally (R140, R169(a)): no
instruction is in progress, and the operand bytes its mode requires are inside memory. -/
structure State.Ready (s : State) (i : Instr) : Prop where
  boundary : s.Boundary
  operands : i.mode.operandBytes = 0 ∨ s.BytesFit i.mode.operandBytes

/-- `exec i s` answers a next state `t`, and the ticks that execute the micro-ops then queued, one for each (R104), answer
the next state `u`. For an instruction that enqueues nothing `u` is the state `exec` answers. -/
def Completes (i : Instr) (s u : State) : Prop :=
  ∃ t, exec i s = .next t ∧ finish t.queue.length t = .next u

/-- One opcode's rule in the template of 44_load.md and 45_ext_store_transfer.md. The opcode byte names the instruction where
it is mapped. In the fetch-decode tick, at an instruction boundary, `exec` enqueues `seq` and changes nothing else. Where the
operand bytes are inside memory the instruction completes, in exactly the state `net`; both are functions of the state
after the opcode byte has been fetched. -/
structure OpcodeRule (i : Instr) (opcode : Byte) (seq : List MicroOp) (net : State → State) : Prop where
  encoding  : encodeOpcode i = opcode ∧ ∀ cfg, i.wf cfg = true → decodeOpcode cfg opcode = i
  tickOne   : ∀ s : State, s.Boundary → exec i s = .next { s with queue := seq }
  completes : ∀ s : State, s.Ready i → Completes i s (net s)

/-- `IP_OVF` is set only by the increment from 0xFFFF, which leaves `IP = 0x0000` (R15). -/
def State.OvfOk (s : State) : Prop := s.ipOvf = true → s.ip = 0x0000

/-- The queue holds a suffix of the sequence of one instruction that exists in this machine (R125). -/
def State.QueueOk (s : State) : Prop :=
  ∃ i : Instr, i.wf s.cfg = true ∧ s.queue <:+ entrySeq i.entry

/-- The invariant of the machine: canonical memory, the overflow latch, and the queue. -/
structure State.Inv (s : State) : Prop where
  memWf   : s.mem.wf = true
  ovfOk   : s.OvfOk
  queueOk : s.QueueOk

/-- A safe run of `n` ticks: no tick of it raises or is refused. -/
def SafeFor (n : Nat) (s : State) : Prop := ∃ t, finish n s = .next t

/-- Two states agree on everything but the resolver's scratch (R22, R23, U20). -/
def AgreeButScratch (s t : State) : Prop :=
  t = { s with eah := t.eah, eal := t.eal, t0 := t.t0, t1 := t.t1 }

/-- Two states agree on everything but the flags `Z` and `N`. -/
def AgreeButZN (s t : State) : Prop :=
  t = { s with flags := { s.flags with z := t.flags.z, n := t.flags.n } }

end Sys2Proof.Machine
end

