-- ==== Sys2Proof/Certificates/Slice0/Obligations.lean ====
section
/-! DEFINITION. Certificates/Slice0/Obligations.lean: the statements about the model, each with the rules of the spec it
formalises. A state `s` of a statement about `exec` is the state AFTER the opcode byte has been fetched, so that the first
operand byte is at `s.ip`; a statement about `step` starts before the fetch. -/

open Sys2Proof Sys2Proof.Machine

/-- Decoding the bytes of any well-formed instruction gives it back, with its operand bytes and the bytes after it.
(30_encoding.md R60, 30_encoding.md R61, R62.) For every setting of the two parameters, every well-formed instruction
with its operand bytes (each at any value) and every list of bytes after it, decode of encode is that instruction and
those bytes. -/
def Obligations.DecodeEncodeRoundTrip : Prop :=
  ∀ (cfg : Config) (c : Code) (rest : List Byte), c.wf cfg = true →
    decode cfg (encode c ++ rest) = .ok (c, rest)

/-- Whatever the decoder reads is well formed, and encoding it gives the very bytes it was read from. (30_encoding.md R60,
30_encoding.md R64, R70.) If decode answers an instruction and the remaining bytes, the instruction is well formed,
its length is the length the format table gives its mode, and its encoding followed by the remaining bytes is the
input: each byte string has one meaning. -/
def Obligations.DecodedBytesReencode : Prop :=
  ∀ (cfg : Config) (bytes rest : List Byte) (c : Code), decode cfg bytes = .ok (c, rest) →
    c.wf cfg = true ∧ encode c ++ rest = bytes ∧ (encode c).length = c.instr.length

/-- Decoding is total on opcode bytes: each of the 256 names exactly one instruction that exists in the machine.
(30_encoding.md R64, R70, R66, R67.) For every setting of the parameters and every opcode byte, the decoded
instruction exists in that machine and its opcode byte is that byte; with three bytes at hand, decode answers an
instruction and never an error. -/
def Obligations.EveryOpcodeByteIsOneInstruction : Prop :=
  ∀ (cfg : Config) (op b1 b2 : Byte), (decodeOpcode cfg op).wf cfg = true ∧ encodeOpcode (decodeOpcode cfg op) = op ∧
    ∃ c rest, decode cfg [op, b1, b2] = .ok (c, rest) ∧ c.instr = decodeOpcode cfg op

/-- The five opcode values the source shows decode to the instructions the source gives them. (R65.) Under every setting
of the parameters 0xA9 is LDA Immediate, 0xB5 LDA Zero Page,X, 0xA1 LDA (Indirect,X), 0xFF the halt opcode and 0x02
unmapped. -/
def Obligations.SourceOpcodesDecode : Prop :=
  ∀ cfg : Config, decodeOpcode cfg 0xA9 = .ldaImm ∧ decodeOpcode cfg 0xB5 = .ldaZpx ∧ decodeOpcode cfg 0xA1 = .ldaIzx ∧
    decodeOpcode cfg 0xFF = .hlt ∧ decodeOpcode cfg 0x02 = .unmapped 0x02

/-- The dispatch table holds the rows of the spec: base, EXT_STORE and EXT_TRANSFER, and Unmapped elsewhere. (R66, R67.)
Under every setting of the parameters the 19 base opcodes have the entries of R66; the 13 store opcodes and the 4
transfer opcodes have the entries of R67 when their own parameter is true and are Unmapped when it is false; and every
opcode value outside the rows of that machine is Unmapped. In the base machine 237 opcode values are Unmapped. -/
def Obligations.DispatchTableHoldsItsRows : Prop :=
  let base : List (Byte × Entry) :=
    [(0xA9, .load .a .imm), (0xA5, .load .a .zp), (0xB5, .load .a .zpx), (0xAD, .load .a .abs), (0xBD, .load .a .abx),
     (0xB9, .load .a .aby), (0xA1, .load .a .izx), (0xB1, .load .a .izy),
     (0xA2, .load .x .imm), (0xA6, .load .x .zp), (0xB6, .load .x .zpy), (0xAE, .load .x .abs), (0xBE, .load .x .aby),
     (0xA0, .load .y .imm), (0xA4, .load .y .zp), (0xB4, .load .y .zpx), (0xAC, .load .y .abs), (0xBC, .load .y .abx),
     (0xFF, .halt)]
  let store : List (Byte × Entry) :=
    [(0x85, .store .a .zp), (0x95, .store .a .zpx), (0x8D, .store .a .abs), (0x9D, .store .a .abx), (0x99, .store .a .aby),
     (0x81, .store .a .izx), (0x91, .store .a .izy), (0x86, .store .x .zp), (0x96, .store .x .zpy), (0x8E, .store .x .abs),
     (0x84, .store .y .zp), (0x94, .store .y .zpx), (0x8C, .store .y .abs)]
  let transfer : List (Byte × Entry) :=
    [(0xAA, .transfer .a .x), (0xA8, .transfer .a .y), (0x8A, .transfer .x .a), (0x98, .transfer .y .a)]
  (∀ cfg : Config,
    (∀ r ∈ base, (decodeOpcode cfg r.1).entry = r.2) ∧
    (∀ r ∈ store, (decodeOpcode cfg r.1).entry = if cfg.extStore then r.2 else .unmapped) ∧
    (∀ r ∈ transfer, (decodeOpcode cfg r.1).entry = if cfg.extTransfer then r.2 else .unmapped) ∧
    (∀ op : Byte, op ∉ base.map Prod.fst → (cfg.extStore = true → op ∉ store.map Prod.fst) →
      (cfg.extTransfer = true → op ∉ transfer.map Prod.fst) → (decodeOpcode cfg op).entry = .unmapped)) ∧
  ((List.range 256).filter fun n => (decodeOpcode .base (BitVec.ofNat 8 n)).entry == .unmapped).length = 237

/-- At an instruction boundary a step fetches one opcode byte and runs the instruction it decodes to. (R105.) With the
queue empty and IP_OVF = 0, step is exec of the instruction the table holds for the byte at IP, in the state with IP
advanced by one and the carry out of 0xFFFF kept in IP_OVF; and when the bytes from IP decode to a well-formed
instruction with operands, it is exec of that instruction. At a boundary exec does what the instruction's table entry
says: nothing, HALTED set to 1, the queue set to load_seq or store_seq, or the target register set to the source with
its flags. The tick's one memory access is the read at IP. With IP_OVF = 1 the fetch raises and there is no next
state. -/
def Obligations.StepRunsTheDecodedInstruction : Prop :=
  ∀ s : State, s.Boundary →
    (s.ipOvf = false →
      step s = exec (decodeOpcode s.cfg (s.mem.read s.ip)) { s with ip := s.ip + 1, ipOvf := s.ip == 0xFFFF } ∧
      ∀ (c : Code) (bytes rest : List Byte), decode s.cfg (s.mem.read s.ip :: bytes) = .ok (c, rest) →
        step s = exec c.instr { s with ip := s.ip + 1, ipOvf := s.ip == 0xFFFF }) ∧
    (∀ i : Instr, exec i s = .next (match i.entry with
      | .unmapped     => s
      | .halt         => { s with halted := true }
      | .load t m     => { s with queue := loadSeq m t }
      | .store r m    => { s with queue := storeSeq m r }
      | .transfer f t => { s.writeSel (regSel t) (s.readSel (regSel f)) with
                           flags := s.flags.setZN (s.readSel (regSel f)) })) ∧
    (s.ipOvf = false → tickReads s = [s.ip] ∧ tickWrites s = []) ∧
    (s.ipOvf = true → step s = .fault (.outOfRangeAccess .ipDereference 0x10000))

/-- With micro-ops queued a step executes the front one and dequeues it only if it did not raise. (R104.) When the queue
is u followed by q, step is the execution of u with the queue then q; if executing u raises, step raises the same
fault and there is no next state. When the queue is empty, step is a fetch-decode. Nothing in this depends on HALTED:
changing HALTED changes no outcome and no other element of the next state. -/
def Obligations.StepExecutesTheFrontMicroOp : Prop :=
  ∀ s : State,
    (∀ u q, s.queue = u :: q →
      (∀ t, execute u s = .next t → step s = .next { t with queue := q }) ∧
      (∀ f, execute u s = .fault f → step s = .fault f)) ∧
    (s.queue = [] → step s = fetchDecode s) ∧
    (∀ (h : Bool) (t : State), step s = .next t →
      ∃ t', step { s with halted := h } = .next t' ∧ { t' with halted := t.halted } = t) ∧
    (∀ (h : Bool) (f : Fault), step s = .fault f → step { s with halted := h } = .fault f)

/-- A step raises exactly when it fetches with IP_OVF = 1, and always the same fault; no step is refused.
(60_exceptions.md R191, R127, R197, R201.) For every state, step answers a fault if and only if IP_OVF = 1 and the
tick fetches through IP (a fetch-decode, FetchByte, FetchAddrLo or FetchAddrHi); the fault is then
OutOfRangeAccess(ip_dereference) with address 0x10000. In every other state it answers a next state. It is never
refused. -/
def Obligations.StepFaultsExactlyPastTheTop : Prop :=
  ∀ s : State,
    (∀ f, step s = .fault f ↔ s.ipOvf = true ∧ f = .outOfRangeAccess .ipDereference 0x10000 ∧
      (s.queue = [] ∨ ∃ u q, s.queue = u :: q ∧ ((∃ r, u = .fetchByte r) ∨ u = .fetchAddrLo ∨ u = .fetchAddrHi))) ∧
    ((¬∃ f, step s = .fault f) → ∃ t, step s = .next t) ∧
    (∀ r, step s ≠ .refused r)

/-- reset() is the only way on after a fault: the next step after it never faults, and what the run left is kept. (R195.)
For every state, after the host's reset() IP is the reset vector, IP_OVF and HALTED are 0 and the queue is empty, the
registers, flags and memory are those the run left, and the next step answers a next state. Nothing else gets a
faulted core going: where step faults, it raises the same fault again after any launch precondition and after any
accepted load_program. -/
def Obligations.ResetGetsAFaultedCoreGoing : Prop :=
  ∀ s : State,
    (hostReset s).ip = wordOf (s.mem.read 0xFFFD) (s.mem.read 0xFFFC) ∧ (hostReset s).ipOvf = false ∧
    (hostReset s).queue = [] ∧ (hostReset s).halted = false ∧
    (hostReset s).a = s.a ∧ (hostReset s).x = s.x ∧ (hostReset s).y = s.y ∧ (hostReset s).sp = s.sp ∧
    (hostReset s).flags = s.flags ∧ (hostReset s).mem = s.mem ∧
    (∃ t, step (hostReset s) = .next t) ∧
    ∀ f, step s = .fault f → (∀ w : HostWrite, step (hostWrite w s) = .fault f) ∧
      ∀ bytes t, loadProgram bytes s = .next t → step t = .fault f

/-- Each of the eight LDA opcodes completes with A the byte its mode resolves to, Z and N from that byte, nothing else
changed. (R150, R151, R152, R153, R154, R155, R156, R157.) LDA in its eight modes (ldaImm, ldaZp, ldaZpx, ldaAbs,
ldaAbx, ldaAby, ldaIzx, ldaIzy). For each: its opcode byte decodes to it; at an instruction boundary exec answers the
next state with the micro-op sequence of its mode enqueued and nothing else changed; and, its operand bytes being
inside memory, exec answers a next state and the ticks of the sequence end in exactly the state written out
(registers, flags, IP, IP_OVF, scratch, memory, every other element unchanged). -/
def Obligations.LdaOpcodesLoadA : Prop :=
  OpcodeRule .ldaImm 0xA9 [.fetchByte .a] (fun s =>
      { s with a := s.operand1, flags := s.flags.setZN s.operand1, ip := s.ip + 1, ipOvf := s.ip == 0xFFFF }) ∧
  OpcodeRule .ldaZp 0xA5 [.fetchAddrLo, .setAddrHi (.const 0x00), .readMem .a] (fun s =>
      let v := s.mem.read (wordOf 0x00 s.operand1)
      { s with a := v, flags := s.flags.setZN v, eah := 0x00, eal := s.operand1, ip := s.ip + 1, ipOvf := s.ip == 0xFFFF }) ∧
  OpcodeRule .ldaZpx 0xB5 [.fetchAddrLo, .setAddrHi (.const 0x00), .addAddrLo (.reg .x), .readMem .a] (fun s =>
      let v := s.mem.read (wordOf 0x00 (s.operand1 + s.x))
      { s with a := v, flags := s.flags.setZN v, eah := 0x00, eal := s.operand1 + s.x, ip := s.ip + 1, ipOvf := s.ip == 0xFFFF }) ∧
  OpcodeRule .ldaAbs 0xAD [.fetchAddrLo, .fetchAddrHi, .readMem .a] (fun s =>
      let v := s.mem.read (wordOf s.operand2 s.operand1)
      { s with a := v, flags := s.flags.setZN v, eah := s.operand2, eal := s.operand1, ip := s.ip + 2, ipOvf := s.ip == 0xFFFE }) ∧
  OpcodeRule .ldaAbx 0xBD [.fetchAddrLo, .fetchAddrHi, .addAddrLo (.reg .x), .readMem .a] (fun s =>
      let v := s.mem.read (wordOf s.operand2 (s.operand1 + s.x))
      { s with a := v, flags := s.flags.setZN v, eah := s.operand2, eal := s.operand1 + s.x, ip := s.ip + 2, ipOvf := s.ip == 0xFFFE }) ∧
  OpcodeRule .ldaAby 0xB9 [.fetchAddrLo, .fetchAddrHi, .addAddrLo (.reg .y), .readMem .a] (fun s =>
      let v := s.mem.read (wordOf s.operand2 (s.operand1 + s.y))
      { s with a := v, flags := s.flags.setZN v, eah := s.operand2, eal := s.operand1 + s.y, ip := s.ip + 2, ipOvf := s.ip == 0xFFFE }) ∧
  OpcodeRule .ldaIzx 0xA1 [.fetchAddrLo, .setAddrHi (.const 0x00), .addAddrLo (.reg .x), .readMem .t0, .addAddrLo (.const 0x01),
      .readMem .t1, .setAddrLo (.reg .t0), .setAddrHi (.reg .t1), .readMem .a] (fun s =>
      let lo := s.mem.read (wordOf 0x00 (s.operand1 + s.x))
      let hi := s.mem.read (wordOf 0x00 (s.operand1 + s.x + 1))
      let v := s.mem.read (wordOf hi lo)
      { s with a := v, flags := s.flags.setZN v, eah := hi, eal := lo, t0 := lo, t1 := hi, ip := s.ip + 1, ipOvf := s.ip == 0xFFFF }) ∧
  OpcodeRule .ldaIzy 0xB1 [.fetchAddrLo, .setAddrHi (.const 0x00), .readMem .t0, .addAddrLo (.const 0x01), .readMem .t1,
      .setAddrLo (.reg .t0), .setAddrHi (.reg .t1), .addAddrLo (.reg .y), .readMem .a] (fun s =>
      let lo := s.mem.read (wordOf 0x00 s.operand1)
      let hi := s.mem.read (wordOf 0x00 (s.operand1 + 1))
      let v := s.mem.read (wordOf hi (lo + s.y))
      { s with a := v, flags := s.flags.setZN v, eah := hi, eal := lo + s.y, t0 := lo, t1 := hi, ip := s.ip + 1, ipOvf := s.ip == 0xFFFF })

/-- Each of the five LDX opcodes completes with X the byte its mode resolves to, Z and N from that byte, nothing else
changed. (R158, R159, R160, R161, R162.) LDX in its five modes (ldxImm, ldxZp, ldxZpy, ldxAbs, ldxAby). For each: its
opcode byte decodes to it; at an instruction boundary exec answers the next state with the micro-op sequence of its
mode enqueued and nothing else changed; and, its operand bytes being inside memory, exec answers a next state and the
ticks of the sequence end in exactly the state written out (registers, flags, IP, IP_OVF, scratch, memory, every other
element unchanged). -/
def Obligations.LdxOpcodesLoadX : Prop :=
  OpcodeRule .ldxImm 0xA2 [.fetchByte .x] (fun s =>
      { s with x := s.operand1, flags := s.flags.setZN s.operand1, ip := s.ip + 1, ipOvf := s.ip == 0xFFFF }) ∧
  OpcodeRule .ldxZp 0xA6 [.fetchAddrLo, .setAddrHi (.const 0x00), .readMem .x] (fun s =>
      let v := s.mem.read (wordOf 0x00 s.operand1)
      { s with x := v, flags := s.flags.setZN v, eah := 0x00, eal := s.operand1, ip := s.ip + 1, ipOvf := s.ip == 0xFFFF }) ∧
  OpcodeRule .ldxZpy 0xB6 [.fetchAddrLo, .setAddrHi (.const 0x00), .addAddrLo (.reg .y), .readMem .x] (fun s =>
      let v := s.mem.read (wordOf 0x00 (s.operand1 + s.y))
      { s with x := v, flags := s.flags.setZN v, eah := 0x00, eal := s.operand1 + s.y, ip := s.ip + 1, ipOvf := s.ip == 0xFFFF }) ∧
  OpcodeRule .ldxAbs 0xAE [.fetchAddrLo, .fetchAddrHi, .readMem .x] (fun s =>
      let v := s.mem.read (wordOf s.operand2 s.operand1)
      { s with x := v, flags := s.flags.setZN v, eah := s.operand2, eal := s.operand1, ip := s.ip + 2, ipOvf := s.ip == 0xFFFE }) ∧
  OpcodeRule .ldxAby 0xBE [.fetchAddrLo, .fetchAddrHi, .addAddrLo (.reg .y), .readMem .x] (fun s =>
      let v := s.mem.read (wordOf s.operand2 (s.operand1 + s.y))
      { s with x := v, flags := s.flags.setZN v, eah := s.operand2, eal := s.operand1 + s.y, ip := s.ip + 2, ipOvf := s.ip == 0xFFFE })

/-- Each of the five LDY opcodes completes with Y the byte its mode resolves to, Z and N from that byte, nothing else
changed. (R163, R164, R165, R166, R167.) LDY in its five modes (ldyImm, ldyZp, ldyZpx, ldyAbs, ldyAbx). For each: its
opcode byte decodes to it; at an instruction boundary exec answers the next state with the micro-op sequence of its
mode enqueued and nothing else changed; and, its operand bytes being inside memory, exec answers a next state and the
ticks of the sequence end in exactly the state written out (registers, flags, IP, IP_OVF, scratch, memory, every other
element unchanged). -/
def Obligations.LdyOpcodesLoadY : Prop :=
  OpcodeRule .ldyImm 0xA0 [.fetchByte .y] (fun s =>
      { s with y := s.operand1, flags := s.flags.setZN s.operand1, ip := s.ip + 1, ipOvf := s.ip == 0xFFFF }) ∧
  OpcodeRule .ldyZp 0xA4 [.fetchAddrLo, .setAddrHi (.const 0x00), .readMem .y] (fun s =>
      let v := s.mem.read (wordOf 0x00 s.operand1)
      { s with y := v, flags := s.flags.setZN v, eah := 0x00, eal := s.operand1, ip := s.ip + 1, ipOvf := s.ip == 0xFFFF }) ∧
  OpcodeRule .ldyZpx 0xB4 [.fetchAddrLo, .setAddrHi (.const 0x00), .addAddrLo (.reg .x), .readMem .y] (fun s =>
      let v := s.mem.read (wordOf 0x00 (s.operand1 + s.x))
      { s with y := v, flags := s.flags.setZN v, eah := 0x00, eal := s.operand1 + s.x, ip := s.ip + 1, ipOvf := s.ip == 0xFFFF }) ∧
  OpcodeRule .ldyAbs 0xAC [.fetchAddrLo, .fetchAddrHi, .readMem .y] (fun s =>
      let v := s.mem.read (wordOf s.operand2 s.operand1)
      { s with y := v, flags := s.flags.setZN v, eah := s.operand2, eal := s.operand1, ip := s.ip + 2, ipOvf := s.ip == 0xFFFE }) ∧
  OpcodeRule .ldyAbx 0xBC [.fetchAddrLo, .fetchAddrHi, .addAddrLo (.reg .x), .readMem .y] (fun s =>
      let v := s.mem.read (wordOf s.operand2 (s.operand1 + s.x))
      { s with y := v, flags := s.flags.setZN v, eah := s.operand2, eal := s.operand1 + s.x, ip := s.ip + 2, ipOvf := s.ip == 0xFFFE })

/-- Each of the seven STA opcodes completes with A stored at the address its mode resolves to, nothing else changed.
(R171, R172, R173, R174, R175, R176, R177.) STA in its seven modes (staZp, staZpx, staAbs, staAbx, staAby, staIzx,
staIzy). For each: its opcode byte decodes to it; at an instruction boundary exec answers the next state with the
micro-op sequence of its mode enqueued and nothing else changed; and, its operand bytes being inside memory, exec
answers a next state and the ticks of the sequence end in exactly the state written out (registers, flags, IP, IP_OVF,
scratch, memory, every other element unchanged). -/
def Obligations.StaOpcodesStoreA : Prop :=
  OpcodeRule .staZp 0x85 [.fetchAddrLo, .setAddrHi (.const 0x00), .writeMem .a] (fun s =>
      { s with mem := s.mem.write (wordOf 0x00 s.operand1) s.a, eah := 0x00, eal := s.operand1, ip := s.ip + 1, ipOvf := s.ip == 0xFFFF }) ∧
  OpcodeRule .staZpx 0x95 [.fetchAddrLo, .setAddrHi (.const 0x00), .addAddrLo (.reg .x), .writeMem .a] (fun s =>
      { s with mem := s.mem.write (wordOf 0x00 (s.operand1 + s.x)) s.a, eah := 0x00, eal := s.operand1 + s.x, ip := s.ip + 1, ipOvf := s.ip == 0xFFFF }) ∧
  OpcodeRule .staAbs 0x8D [.fetchAddrLo, .fetchAddrHi, .writeMem .a] (fun s =>
      { s with mem := s.mem.write (wordOf s.operand2 s.operand1) s.a, eah := s.operand2, eal := s.operand1, ip := s.ip + 2, ipOvf := s.ip == 0xFFFE }) ∧
  OpcodeRule .staAbx 0x9D [.fetchAddrLo, .fetchAddrHi, .addAddrLo (.reg .x), .writeMem .a] (fun s =>
      { s with mem := s.mem.write (wordOf s.operand2 (s.operand1 + s.x)) s.a, eah := s.operand2, eal := s.operand1 + s.x, ip := s.ip + 2, ipOvf := s.ip == 0xFFFE }) ∧
  OpcodeRule .staAby 0x99 [.fetchAddrLo, .fetchAddrHi, .addAddrLo (.reg .y), .writeMem .a] (fun s =>
      { s with mem := s.mem.write (wordOf s.operand2 (s.operand1 + s.y)) s.a, eah := s.operand2, eal := s.operand1 + s.y, ip := s.ip + 2, ipOvf := s.ip == 0xFFFE }) ∧
  OpcodeRule .staIzx 0x81 [.fetchAddrLo, .setAddrHi (.const 0x00), .addAddrLo (.reg .x), .readMem .t0, .addAddrLo (.const 0x01),
      .readMem .t1, .setAddrLo (.reg .t0), .setAddrHi (.reg .t1), .writeMem .a] (fun s =>
      let lo := s.mem.read (wordOf 0x00 (s.operand1 + s.x))
      let hi := s.mem.read (wordOf 0x00 (s.operand1 + s.x + 1))
      { s with mem := s.mem.write (wordOf hi lo) s.a, eah := hi, eal := lo, t0 := lo, t1 := hi, ip := s.ip + 1, ipOvf := s.ip == 0xFFFF }) ∧
  OpcodeRule .staIzy 0x91 [.fetchAddrLo, .setAddrHi (.const 0x00), .readMem .t0, .addAddrLo (.const 0x01), .readMem .t1,
      .setAddrLo (.reg .t0), .setAddrHi (.reg .t1), .addAddrLo (.reg .y), .writeMem .a] (fun s =>
      let lo := s.mem.read (wordOf 0x00 s.operand1)
      let hi := s.mem.read (wordOf 0x00 (s.operand1 + 1))
      { s with mem := s.mem.write (wordOf hi (lo + s.y)) s.a, eah := hi, eal := lo + s.y, t0 := lo, t1 := hi, ip := s.ip + 1, ipOvf := s.ip == 0xFFFF })

/-- Each of the six STX and STY opcodes completes with X or Y stored at the address its mode resolves to, nothing else
changed. (R178, R179, R180, R181, R182, R183.) STX and STY in their three modes each (stxZp, stxZpy, stxAbs, styZp,
styZpx, styAbs). For each: its opcode byte decodes to it; at an instruction boundary exec answers the next state with
the micro-op sequence of its mode enqueued and nothing else changed; and, its operand bytes being inside memory, exec
answers a next state and the ticks of the sequence end in exactly the state written out (registers, flags, IP, IP_OVF,
scratch, memory, every other element unchanged). -/
def Obligations.StxAndStyOpcodesStoreTheirRegister : Prop :=
  OpcodeRule .stxZp 0x86 [.fetchAddrLo, .setAddrHi (.const 0x00), .writeMem .x] (fun s =>
      { s with mem := s.mem.write (wordOf 0x00 s.operand1) s.x, eah := 0x00, eal := s.operand1, ip := s.ip + 1, ipOvf := s.ip == 0xFFFF }) ∧
  OpcodeRule .stxZpy 0x96 [.fetchAddrLo, .setAddrHi (.const 0x00), .addAddrLo (.reg .y), .writeMem .x] (fun s =>
      { s with mem := s.mem.write (wordOf 0x00 (s.operand1 + s.y)) s.x, eah := 0x00, eal := s.operand1 + s.y, ip := s.ip + 1, ipOvf := s.ip == 0xFFFF }) ∧
  OpcodeRule .stxAbs 0x8E [.fetchAddrLo, .fetchAddrHi, .writeMem .x] (fun s =>
      { s with mem := s.mem.write (wordOf s.operand2 s.operand1) s.x, eah := s.operand2, eal := s.operand1, ip := s.ip + 2, ipOvf := s.ip == 0xFFFE }) ∧
  OpcodeRule .styZp 0x84 [.fetchAddrLo, .setAddrHi (.const 0x00), .writeMem .y] (fun s =>
      { s with mem := s.mem.write (wordOf 0x00 s.operand1) s.y, eah := 0x00, eal := s.operand1, ip := s.ip + 1, ipOvf := s.ip == 0xFFFF }) ∧
  OpcodeRule .styZpx 0x94 [.fetchAddrLo, .setAddrHi (.const 0x00), .addAddrLo (.reg .x), .writeMem .y] (fun s =>
      { s with mem := s.mem.write (wordOf 0x00 (s.operand1 + s.x)) s.y, eah := 0x00, eal := s.operand1 + s.x, ip := s.ip + 1, ipOvf := s.ip == 0xFFFF }) ∧
  OpcodeRule .styAbs 0x8C [.fetchAddrLo, .fetchAddrHi, .writeMem .y] (fun s =>
      { s with mem := s.mem.write (wordOf s.operand2 s.operand1) s.y, eah := s.operand2, eal := s.operand1, ip := s.ip + 2, ipOvf := s.ip == 0xFFFE })

/-- TAX, TAY, TXA, TYA complete in one tick with the target the source register, Z and N from it, nothing else changed.
(R184, R185, R186, R187.) For tax, tay, txa and tya, in every state exec answers the next state with the target
register equal to the source and the flags set from that byte, every other element unchanged, the queue included.
Fetched at a boundary with EXT_TRANSFER true, the whole instruction is that one step with IP advanced by one; with
EXT_TRANSFER false the byte is a one-byte no-op. -/
def Obligations.TransfersCopyOneRegister : Prop :=
  ∀ s : State,
    exec .tax s = .next { s with x := s.a, flags := s.flags.setZN s.a } ∧
    (s.Boundary → s.ipOvf = false → s.mem.read s.ip = 0xAA →
      (s.cfg.extTransfer = true →
        step s = .next { s with x := s.a, flags := s.flags.setZN s.a, ip := s.ip + 1, ipOvf := s.ip == 0xFFFF }) ∧
      (s.cfg.extTransfer = false → step s = .next { s with ip := s.ip + 1, ipOvf := s.ip == 0xFFFF })) ∧
    exec .tay s = .next { s with y := s.a, flags := s.flags.setZN s.a } ∧
    (s.Boundary → s.ipOvf = false → s.mem.read s.ip = 0xA8 →
      (s.cfg.extTransfer = true →
        step s = .next { s with y := s.a, flags := s.flags.setZN s.a, ip := s.ip + 1, ipOvf := s.ip == 0xFFFF }) ∧
      (s.cfg.extTransfer = false → step s = .next { s with ip := s.ip + 1, ipOvf := s.ip == 0xFFFF })) ∧
    exec .txa s = .next { s with a := s.x, flags := s.flags.setZN s.x } ∧
    (s.Boundary → s.ipOvf = false → s.mem.read s.ip = 0x8A →
      (s.cfg.extTransfer = true →
        step s = .next { s with a := s.x, flags := s.flags.setZN s.x, ip := s.ip + 1, ipOvf := s.ip == 0xFFFF }) ∧
      (s.cfg.extTransfer = false → step s = .next { s with ip := s.ip + 1, ipOvf := s.ip == 0xFFFF })) ∧
    exec .tya s = .next { s with a := s.y, flags := s.flags.setZN s.y } ∧
    (s.Boundary → s.ipOvf = false → s.mem.read s.ip = 0x98 →
      (s.cfg.extTransfer = true →
        step s = .next { s with a := s.y, flags := s.flags.setZN s.y, ip := s.ip + 1, ipOvf := s.ip == 0xFFFF }) ∧
      (s.cfg.extTransfer = false → step s = .next { s with ip := s.ip + 1, ipOvf := s.ip == 0xFFFF }))

/-- HLT completes in its fetch-decode tick with HALTED = 1, IP advanced by one and nothing else changed. (R106.) For every
state exec of hlt answers the next state with HALTED 1 and every other element unchanged. At a boundary with the byte
0xFF at IP and IP_OVF = 0, step answers that state with IP advanced by one (at 0xFFFF: IP = 0x0000 and IP_OVF = 1);
with IP_OVF = 1 the fetch raises OutOfRangeAccess. -/
def Obligations.HltSetsHaltedOnly : Prop :=
  ∀ s : State, exec .hlt s = .next { s with halted := true } ∧
    (s.Boundary → s.ipOvf = false → s.mem.read s.ip = 0xFF →
      step s = .next { s with halted := true, ip := s.ip + 1, ipOvf := s.ip == 0xFFFF }) ∧
    (s.Boundary → s.ipOvf = true → step s = .fault (.outOfRangeAccess .ipDereference 0x10000))

/-- An unmapped opcode is a one-byte no-op: it completes in its fetch-decode tick and only IP has moved. (R107.) For every
byte and state exec of unmapped answers the state itself. At a boundary with IP_OVF = 0 and a byte at IP that is none
of the mapped opcodes of this machine, step answers the state with IP advanced by one and every other element, Z and N
included, unchanged; in the base machine that includes the 17 store and transfer opcodes. With IP_OVF = 1 the fetch
raises OutOfRangeAccess, whatever the opcode. -/
def Obligations.UnmappedOpcodesChangeOnlyIp : Prop :=
  (∀ (op : Byte) (s : State), exec (.unmapped op) s = .next s) ∧
  (∀ s : State, s.Boundary → s.ipOvf = false → s.mem.read s.ip ∉ mappedOpcodes s.cfg →
    step s = .next { s with ip := s.ip + 1, ipOvf := s.ip == 0xFFFF }) ∧
  (∀ s : State, s.Boundary → s.ipOvf = true → step s = .fault (.outOfRangeAccess .ipDereference 0x10000)) ∧
  (∀ op ∈ ([0x85, 0x95, 0x8D, 0x9D, 0x99, 0x81, 0x91, 0x86, 0x96, 0x8E, 0x84, 0x94, 0x8C, 0xAA, 0xA8, 0x8A, 0x98]
    : List Byte), op ∉ mappedOpcodes .base)

/-- The ticks of a load, from its fetch-decode tick to its last micro-op, give the load as one step (R140). (R140.) For
every load of mode m and target t, from a state at an instruction boundary with IP = p, IP_OVF = 0, the load's opcode
at p and p + operand_bytes(m) at most 0xFFFF: 1 + length(load_seq(m, t)) ticks answer a next state in which the target
is v, Z and N are v = 0 and bit 7 of v, IP and IP_OVF are the 17-bit number p + 1 + operand_bytes(m), the queue is
empty, the other general registers, SP, the unconnected flags, HALTED, the parameters and all of memory are unchanged,
and EAP is EA(m) unless m is Immediate; v is b1 for Immediate and M[EA(m)] otherwise. -/
def Obligations.LoadTicksGiveTheNetResult : Prop :=
  ∀ (s : State) (t : Reg) (m : Mode), s.Boundary → s.ipOvf = false →
    (decodeOpcode s.cfg (s.mem.read s.ip)).entry = .load t m →
    s.ip.toNat + m.operandBytes ≤ 0xFFFF →
    ∃ u v, finish (1 + (loadSeq m t).length) s = .next u ∧
      (if m = .imm then v = s.mem.read (s.ip + 1) ∧ u.eap = s.eap
       else ∃ ea, effectiveAddress m (s.mem.read (s.ip + 1)) (s.mem.read (s.ip + 2)) s.x s.y s.mem = some ea ∧
        v = s.mem.read ea ∧ u.eap = ea) ∧
      u.readSel (regSel t) = v ∧ u.flags.z = (v == 0) ∧ u.flags.n = v.getLsbD 7 ∧
      u.ip17 = s.ip.toNat + 1 + m.operandBytes ∧
      (u.ipOvf = true ↔ s.ip.toNat + 1 + m.operandBytes = 0x10000) ∧ u.queue = [] ∧
      (∀ r : Reg, r ≠ t → u.readSel (regSel r) = s.readSel (regSel r)) ∧ u.sp = s.sp ∧
      u.flags.c = s.flags.c ∧ u.flags.i = s.flags.i ∧ u.flags.d = s.flags.d ∧ u.flags.b0 = s.flags.b0 ∧
      u.flags.b1 = s.flags.b1 ∧ u.flags.v = s.flags.v ∧
      u.halted = s.halted ∧ u.cfg = s.cfg ∧ u.mem = s.mem

/-- The cycle-stepped machine and the immediate design agree on every instruction, at instruction boundaries. (00_scope.md
R6, 43_microops.md R140, R168, R188, R189.) For every instruction (all 18 loads, 13 stores, 4 transfers, HLT and
unmapped) ready to execute, exec answers a next state and the ticks of the micro-ops it queued end in exactly the
state of the instruction's net effect, which is again at a boundary, with IP past its operand bytes and the
parameters, SP and HALTED (but for HLT) as before. The scratch left behind is the model's net effect, as R140
describes it. -/
def Obligations.TicksAgreeWithTheImmediateDesign : Prop :=
  ∀ (i : Instr) (s : State), s.Ready i →
    Completes i s (netEffect i.entry s) ∧ (netEffect i.entry s).Boundary ∧
    (netEffect i.entry s).ip17 = s.ip17 + i.mode.operandBytes ∧
    (netEffect i.entry s).cfg = s.cfg ∧ (netEffect i.entry s).sp = s.sp ∧
    ((netEffect i.entry s).halted = true ↔ s.halted = true ∨ i = .hlt)

/-- A store as one step writes the source register at EA(m) and advances IP; no register and no flag changes. (R188.) For
every store instruction with source r and mode m ready to execute: there is an effective address EA(m), exec answers a
next state, and the ticks of its sequence end in a state where memory is the old memory with register r's byte at
EA(m) (computed from the operand bytes, registers and memory before the store), IP is past the operand bytes, and A,
X, Y, SP, all eight flags and HALTED are unchanged. If the operand bytes run past the top of memory the run of the
instruction faults before anything is stored: memory, registers and flags are then unchanged. -/
def Obligations.StoresWriteOneByte : Prop :=
  ∀ (i : Instr) (r : Reg) (m : Mode) (s : State), i.entry = .store r m → s.Boundary →
    (s.BytesFit m.operandBytes →
      ∃ ea u, effectiveAddress m (s.mem.read s.ip) (s.mem.read (s.ip + 1)) s.x s.y s.mem = some ea ∧ Completes i s u ∧
        u.mem = s.mem.write ea (s.readSel (regSel r)) ∧ u.ip17 = s.ip17 + m.operandBytes ∧ u.queue = [] ∧
        u.a = s.a ∧ u.x = s.x ∧ u.y = s.y ∧ u.sp = s.sp ∧ u.flags = s.flags ∧ u.halted = s.halted ∧ u.cfg = s.cfg) ∧
    (¬s.BytesFit m.operandBytes →
      ∃ t k u, exec i s = .next t ∧ k < t.queue.length ∧ finish k t = .next u ∧
        step u = .fault (.outOfRangeAccess .ipDereference 0x10000) ∧
        u.mem = s.mem ∧ u.a = s.a ∧ u.x = s.x ∧ u.y = s.y ∧ u.flags = s.flags)

/-- Frame of the 18 loads: only the target register, Z, N, IP, IP_OVF and the scratch can change. (44_load.md R168, R123,
R12.) If a load with target t completes from a boundary, then every general register but t, SP, HALTED, the six
unconnected flags, the parameters and every byte of memory are as before; the queue is empty again. -/
def Obligations.LoadsLeaveEverythingElse : Prop :=
  ∀ (i : Instr) (t : Reg) (m : Mode) (s u : State), i.entry = .load t m → s.Boundary → Completes i s u →
    (∀ r : Reg, r ≠ t → u.readSel (regSel r) = s.readSel (regSel r)) ∧ u.sp = s.sp ∧ u.halted = s.halted ∧
    u.cfg = s.cfg ∧ u.flags.c = s.flags.c ∧ u.flags.i = s.flags.i ∧ u.flags.d = s.flags.d ∧
    u.flags.b0 = s.flags.b0 ∧ u.flags.b1 = s.flags.b1 ∧ u.flags.v = s.flags.v ∧ u.queue = [] ∧
    ∀ a : Word, u.mem.read a = s.mem.read a

/-- Frame of the 13 stores: only the byte at EA(m), IP, IP_OVF and the scratch can change. (45_ext_store_transfer.md R188,
R42, R94.) If a store with mode m completes from a boundary, then for every address that EA(m) gives for the operand
bytes, registers and memory before it, every byte at another address reads as before; A, X, Y, SP, HALTED, all eight
flags and the parameters are as before; the queue is empty again. EA(m) gives an address for every mode a store has. -/
def Obligations.StoresLeaveEverythingElse : Prop :=
  ∀ (i : Instr) (r : Reg) (m : Mode) (s u : State), i.entry = .store r m → s.Boundary → Completes i s u →
    (effectiveAddress m s.operand1 s.operand2 s.x s.y s.mem).isSome = true ∧
    (∀ ea, effectiveAddress m s.operand1 s.operand2 s.x s.y s.mem = some ea →
      ∀ a : Word, a ≠ ea → u.mem.read a = s.mem.read a) ∧
    u.a = s.a ∧ u.x = s.x ∧ u.y = s.y ∧ u.sp = s.sp ∧ u.halted = s.halted ∧ u.flags = s.flags ∧ u.cfg = s.cfg ∧
    u.queue = []

/-- Frame of exec for all instructions: the handler changes at most the queue, HALTED, or a transfer's register and flags.
(41_dispatch.md R103, 41_dispatch.md R105.) Whatever instruction exec runs, the next state has the memory, SP, IP,
IP_OVF, EAP, T0, T1 and parameters it had; HALTED is changed by hlt only, the queue by loads and stores only, A, X, Y
and the flags by transfers only. -/
def Obligations.FetchDecodeTickLeavesMemoryAndScratch : Prop :=
  ∀ (i : Instr) (s t : State), exec i s = .next t →
    t.mem = s.mem ∧ t.sp = s.sp ∧ t.ip = s.ip ∧ t.ipOvf = s.ipOvf ∧ t.eah = s.eah ∧ t.eal = s.eal ∧ t.t0 = s.t0 ∧
    t.t1 = s.t1 ∧ t.cfg = s.cfg ∧ (i ≠ .hlt → t.halted = s.halted) ∧
    ((∀ f r, i.entry ≠ .transfer f r) → t.a = s.a ∧ t.x = s.x ∧ t.y = s.y ∧ t.flags = s.flags) ∧
    ((∀ f r, i.entry = .transfer f r → t.readSel (regSel f) = s.readSel (regSel f) ∧
      (∀ q : Reg, q ≠ r → t.readSel (regSel q) = s.readSel (regSel q)) ∧
      t.flags.c = s.flags.c ∧ t.flags.i = s.flags.i ∧ t.flags.d = s.flags.d ∧ t.flags.b0 = s.flags.b0 ∧
      t.flags.b1 = s.flags.b1 ∧ t.flags.v = s.flags.v)) ∧
    ((∀ r m, i.entry ≠ .load r m ∧ i.entry ≠ .store r m) → t.queue = s.queue)

/-- A load whose operand bytes run past 0xFFFF faults in that operand fetch, with target, flags and memory untouched.
(44_load.md R169, 60_exceptions.md R194.) For every load at a boundary whose operand bytes do not all lie inside
memory, exec answers a next state, some number of its micro-ops execute, and then the step raises
OutOfRangeAccess(ip_dereference); in the state where it does, A, X, Y, the flags, SP, HALTED and memory are those
before the instruction, and the micro-op that faults is still at the front of the queue. -/
def Obligations.OperandFetchPastTheTopFaults : Prop :=
  ∀ (i : Instr) (t : Reg) (m : Mode) (s : State), i.entry = .load t m → s.Boundary →
    ¬s.BytesFit m.operandBytes →
    ∃ s' k u, exec i s = .next s' ∧ k < s'.queue.length ∧ finish k s' = .next u ∧
      step u = .fault (.outOfRangeAccess .ipDereference 0x10000) ∧ u.queue = s'.queue.drop k ∧
      u.a = s.a ∧ u.x = s.x ∧ u.y = s.y ∧ u.flags = s.flags ∧ u.sp = s.sp ∧ u.halted = s.halted ∧ u.mem = s.mem

/-- After a load Z and N are functions of the byte loaded alone: runs that differ only in Z and N end in the same state.
(R122.) For every load, two states ready to execute it that differ only in Z and N both complete, in one and the same
state, in which Z and N are those of the byte in the target; through the load's ticks but the last the flags are those
before it; and a step that changes a flag executes a FetchByte or ReadMem to a general register, or fetches and
decodes a transfer: between two qualifying operations no flag changes. -/
def Obligations.NoStaleFlagSurvivesALoad : Prop :=
  (∀ (i : Instr) (t : Reg) (m : Mode) (s s' : State), i.entry = .load t m → s.Ready i → AgreeButZN s s' →
    ∃ u, Completes i s u ∧ Completes i s' u ∧
      u.flags.z = (u.readSel (regSel t) == 0) ∧ u.flags.n = (u.readSel (regSel t)).getLsbD 7) ∧
  (∀ (i : Instr) (t : Reg) (m : Mode) (s s' u : State) (k : Nat), i.entry = .load t m → s.Boundary →
    exec i s = .next s' → k < s'.queue.length → finish k s' = .next u → u.flags = s.flags) ∧
  (∀ s t : State, step s = .next t → t.flags ≠ s.flags →
    (∃ (r : Reg) (q : List MicroOp), s.queue = .fetchByte (regSel r) :: q ∨ s.queue = .readMem (regSel r) :: q) ∨
    (s.queue = [] ∧ ∃ f r, (decodeOpcode s.cfg (s.mem.read s.ip)).entry = .transfer f r))

/-- No instruction's observable result depends on EAP, T0 or T1 as they were when it began. (10_state.md R22, 10_state.md
R23, R137.) For every instruction, two states ready to execute it that differ only in EAP, T0 and T1 both complete,
and what the host can observe of the two end states (A, X, Y, IP, SP, the flags, HALTED, memory) is the same. -/
def Obligations.ScratchNeverReachesTheHost : Prop :=
  ∀ (i : Instr) (s s' : State), s.Ready i → AgreeButScratch s s' →
    ∃ u u', Completes i s u ∧ Completes i s' u' ∧ u.observe = u'.observe

/-- FetchByte, FetchAddrLo and FetchAddrHi: the byte at IP goes to the target, EAL or EAH; IP advances; or the fetch
raises. (R128, R129, R130.) With IP_OVF = 0 each executes: IP and IP_OVF advance, and FetchByte writes the byte at IP
to its target (with Z and N from it for A, X, Y and for no other target), FetchAddrLo to EAL with EAH preserved,
FetchAddrHi to EAH with EAL preserved; nothing else changes. With IP_OVF = 1 each raises
OutOfRangeAccess(ip_dereference). -/
def Obligations.FetchMicroOpsFollowTheirRules : Prop :=
  ∀ s : State,
    (s.ipOvf = false →
      (let b := s.mem.read s.ip
       execute (.fetchByte .a) s = .next { s with a := b, flags := s.flags.setZN b, ip := s.ip + 1, ipOvf := s.ip == 0xFFFF } ∧
       execute (.fetchByte .x) s = .next { s with x := b, flags := s.flags.setZN b, ip := s.ip + 1, ipOvf := s.ip == 0xFFFF } ∧
       execute (.fetchByte .y) s = .next { s with y := b, flags := s.flags.setZN b, ip := s.ip + 1, ipOvf := s.ip == 0xFFFF } ∧
       execute (.fetchByte .t0) s = .next { s with t0 := b, ip := s.ip + 1, ipOvf := s.ip == 0xFFFF } ∧
       execute (.fetchByte .t1) s = .next { s with t1 := b, ip := s.ip + 1, ipOvf := s.ip == 0xFFFF } ∧
       execute .fetchAddrLo s = .next { s with eal := b, ip := s.ip + 1, ipOvf := s.ip == 0xFFFF } ∧
       execute .fetchAddrHi s = .next { s with eah := b, ip := s.ip + 1, ipOvf := s.ip == 0xFFFF })) ∧
    (s.ipOvf = true → ∀ r : Sel,
      execute (.fetchByte r) s = .fault (.outOfRangeAccess .ipDereference 0x10000) ∧
      execute .fetchAddrLo s = .fault (.outOfRangeAccess .ipDereference 0x10000) ∧
      execute .fetchAddrHi s = .fault (.outOfRangeAccess .ipDereference 0x10000))

/-- SetAddrLo, SetAddrHi, AddAddrLo, AddAddrHi: one half of EAP is set or added to modulo 256, the other half kept. (R131,
R132, R133, R134.) In every state each executes and changes only its half of EAP: the set micro-ops to the source
operand's value, the add micro-ops to the half plus that value modulo 256, with no carry into the other half and no
flag written. The value of a constant is the constant and of a register its present content. -/
def Obligations.AddressMicroOpsFollowTheirRules : Prop :=
  ∀ (s : State) (src : Src) (v : Byte),
    (v = match src with
      | .const b => b | .reg .a => s.a | .reg .x => s.x | .reg .y => s.y | .reg .t0 => s.t0 | .reg .t1 => s.t1) →
    execute (.setAddrLo src) s = .next { s with eal := v } ∧
    execute (.setAddrHi src) s = .next { s with eah := v } ∧
    execute (.addAddrLo src) s = .next { s with eal := BitVec.ofNat 8 ((s.eal.toNat + v.toNat) % 256) } ∧
    execute (.addAddrHi src) s = .next { s with eah := BitVec.ofNat 8 ((s.eah.toNat + v.toNat) % 256) }

/-- ReadMem and WriteMem: the byte at EAH:EAL goes to the target with its flags, or the source goes to that byte. (R135,
R136.) In every state each executes. ReadMem writes the byte at EAP to its target, with Z and N from it for A, X and Y
only, and changes nothing else. WriteMem writes its source register at EAP and changes nothing else: no flag, no
register. -/
def Obligations.MemoryMicroOpsFollowTheirRules : Prop :=
  ∀ (s : State) (ea : Word), ea.toNat = s.eah.toNat * 256 + s.eal.toNat →
    (let b := s.mem.read ea
     execute (.readMem .a) s = .next { s with a := b, flags := s.flags.setZN b } ∧
     execute (.readMem .x) s = .next { s with x := b, flags := s.flags.setZN b } ∧
     execute (.readMem .y) s = .next { s with y := b, flags := s.flags.setZN b } ∧
     execute (.readMem .t0) s = .next { s with t0 := b } ∧
     execute (.readMem .t1) s = .next { s with t1 := b }) ∧
    execute (.writeMem .a) s = .next { s with mem := s.mem.write ea s.a } ∧
    execute (.writeMem .x) s = .next { s with mem := s.mem.write ea s.x } ∧
    execute (.writeMem .y) s = .next { s with mem := s.mem.write ea s.y } ∧
    execute (.writeMem .t0) s = .next { s with mem := s.mem.write ea s.t0 } ∧
    execute (.writeMem .t1) s = .next { s with mem := s.mem.write ea s.t1 }

/-- The memory reads of a load's ticks are, in order, the operand bytes, the pointer bytes, and the data byte of its mode.
(43_microops.md R137, 20_memory.md R46, R94.) For each of the nine modes and every target, from a boundary (the opcode
byte already fetched, so that IP is p + 1) with the operand bytes inside memory: the cells read by the ticks of
load_seq are, in order, those R137 lists after M[p]. -/
def Obligations.LoadSequencesReadTheirCellsInOrder : Prop :=
  ∀ (s : State) (t : Reg), s.Boundary →
    let log (m : Mode) := readLog (loadSeq m t).length (s.enqueue (loadSeq m t))
    let b1 := s.mem.read s.ip
    let b2 := s.mem.read (s.ip + 1)
    (s.BytesFit 1 →
      log .imm = [s.ip] ∧
      log .zp = [s.ip, wordOf 0x00 b1] ∧
      log .zpx = [s.ip, wordOf 0x00 (b1 + s.x)] ∧
      log .zpy = [s.ip, wordOf 0x00 (b1 + s.y)] ∧
      log .izx = [s.ip, wordOf 0x00 (b1 + s.x), wordOf 0x00 (b1 + s.x + 1),
        wordOf (s.mem.read (wordOf 0x00 (b1 + s.x + 1))) (s.mem.read (wordOf 0x00 (b1 + s.x)))] ∧
      log .izy = [s.ip, wordOf 0x00 b1, wordOf 0x00 (b1 + 1),
        wordOf (s.mem.read (wordOf 0x00 (b1 + 1))) (s.mem.read (wordOf 0x00 b1) + s.y)]) ∧
    (s.BytesFit 2 →
      log .abs = [s.ip, s.ip + 1, wordOf b2 b1] ∧
      log .abx = [s.ip, s.ip + 1, wordOf b2 (b1 + s.x)] ∧
      log .aby = [s.ip, s.ip + 1, wordOf b2 (b1 + s.y)])

/-- store_seq(m, s) is load_seq(m, t) with its last micro-op ReadMem(t) replaced by WriteMem(s). (R138.) For every mode a
store instruction has, every source and every target, load_seq is some micro-ops followed by ReadMem(t) and store_seq
is the same micro-ops followed by WriteMem(s), so their lengths are equal; no store instruction has Immediate mode. -/
def Obligations.StoreSequencesReplaceTheLastMicroOp : Prop :=
  (∀ (m : Mode) (r t : Reg), m ≠ .imp → m ≠ .imm →
    ∃ ops, loadSeq m t = ops ++ [.readMem (regSel t)] ∧ storeSeq m r = ops ++ [.writeMem (regSel r)] ∧
      (storeSeq m r).length = (loadSeq m t).length) ∧
  (∀ (i : Instr) (r : Reg) (m : Mode), i.entry = .store r m → m ≠ .imm ∧ m ≠ .imp)

/-- The number of ticks of each kind of instruction is the one the spec's table gives. (70_reset_and_hazards.md R230,
43_microops.md R137.) HLT, unmapped and the transfers take 1 tick; loads and stores take 2 in Immediate, 4 in Zero
Page and Absolute, 5 in the indexed forms of those, 10 in the two indirect modes; no instruction takes more than 10,
so the queue never holds more than 9 micro-ops. -/
def Obligations.TickCountsOfEachKind : Prop :=
  ∀ i : Instr, instrTicks i ≤ 1 + qDepth ∧
    instrTicks i = match i.mode with
      | .imp => 1 | .imm => 2 | .zp => 4 | .zpx => 5 | .zpy => 5 | .abs => 4 | .abx => 5 | .aby => 5 | .izx => 10 | .izy => 10

/-- The zero-page modes give an address below 0x0100: the operand plus the index modulo 256. (40_addressing.md R82, R83,
R84, R92.) For all operand bytes, index registers and memories, the effective address of Zero Page is the operand
byte, of Zero Page,X the operand plus X modulo 256, of Zero Page,Y the operand plus Y modulo 256, as numbers; operand
0xFF with index 0x02 gives 0x0001. -/
def Obligations.ZeroPageModesWrapInTheZeroPage : Prop :=
  ∀ (b1 b2 x y : Byte) (mem : Memory),
    (∃ ea, effectiveAddress .zp b1 b2 x y mem = some ea ∧ ea.toNat = b1.toNat) ∧
    (∃ ea, effectiveAddress .zpx b1 b2 x y mem = some ea ∧ ea.toNat = (b1.toNat + x.toNat) % 256 ∧
      (b1 = 0xFF → x = 0x02 → ea = 0x0001)) ∧
    (∃ ea, effectiveAddress .zpy b1 b2 x y mem = some ea ∧ ea.toNat = (b1.toNat + y.toNat) % 256 ∧
      (b1 = 0xFF → y = 0x02 → ea = 0x0001))

/-- Absolute,X and Absolute,Y stay in the page of the high operand byte: the index is added to the low byte modulo 256.
(40_addressing.md R85, R86, R87, R92.) For all operands, the effective address of Absolute is b2 * 256 + b1, of
Absolute,X b2 * 256 + (b1 + X) modulo 256, of Absolute,Y the same with Y, as numbers: below the sum b2:b1 + X by
exactly 0x0100 when b1 + X reaches 256 and equal to it otherwise. -/
def Obligations.IndexedAbsoluteDoesNotCarry : Prop :=
  ∀ (b1 b2 x y : Byte) (mem : Memory),
    (∃ ea, effectiveAddress .abs b1 b2 x y mem = some ea ∧ ea.toNat = b2.toNat * 256 + b1.toNat) ∧
    (∃ ea, effectiveAddress .abx b1 b2 x y mem = some ea ∧ ea.toNat = b2.toNat * 256 + (b1.toNat + x.toNat) % 256 ∧
      (256 ≤ b1.toNat + x.toNat → ea.toNat + 0x100 = b2.toNat * 256 + b1.toNat + x.toNat) ∧
      (b1.toNat + x.toNat < 256 → ea.toNat = b2.toNat * 256 + b1.toNat + x.toNat)) ∧
    (∃ ea, effectiveAddress .aby b1 b2 x y mem = some ea ∧ ea.toNat = b2.toNat * 256 + (b1.toNat + y.toNat) % 256)

/-- The indirect modes read their pointer low byte first, both bytes in the zero page, and (Indirect),Y does not carry.
(40_addressing.md R88, R89, R44, R45.) As numbers: (Indirect,X) reads its pointer at p = (b1 + X) modulo 256 and (p +
1) modulo 256 and the effective address is high * 256 + low; (Indirect),Y reads it at b1 and (b1 + 1) modulo 256 and
the effective address is high * 256 + (low + Y) modulo 256. -/
def Obligations.IndirectPointersWrapInTheZeroPage : Prop :=
  ∀ (b1 b2 x y : Byte) (mem : Memory),
    (∃ ea, effectiveAddress .izx b1 b2 x y mem = some ea ∧
      ea.toNat = (mem.get (((b1.toNat + x.toNat) % 256 + 1) % 256)).toNat * 256 + (mem.get ((b1.toNat + x.toNat) % 256)).toNat) ∧
    (∃ ea, effectiveAddress .izy b1 b2 x y mem = some ea ∧
      ea.toNat = (mem.get ((b1.toNat + 1) % 256)).toNat * 256 + ((mem.get b1.toNat).toNat + y.toNat) % 256)

/-- SetZN: 0x00 gives Z = 1, N = 0; 0x01 to 0x7F gives Z = 0, N = 0; 0x80 to 0xFF gives Z = 0, N = 1; no other flag is
written. (R120.) For every byte and earlier flags the outcome is the table's row for the byte's range, Z = 1 and N = 1
together never result, and C, I, D, B0, B1 and V are unchanged. -/
def Obligations.SetZNOutcomeTable : Prop :=
  ∀ (v : Byte) (f : Flags),
    (v.toNat = 0 → (f.setZN v).z = true ∧ (f.setZN v).n = false) ∧
    (1 ≤ v.toNat → v.toNat ≤ 0x7F → (f.setZN v).z = false ∧ (f.setZN v).n = false) ∧
    (0x80 ≤ v.toNat → (f.setZN v).z = false ∧ (f.setZN v).n = true) ∧
    ¬((f.setZN v).z = true ∧ (f.setZN v).n = true) ∧
    { f.setZN v with z := f.z, n := f.n } = f

/-- A tick either changes no general register and no flag, or writes one general register and sets Z and N from the byte
written. (42_flag_engine.md R121, R227.) For every step that answers a next state: A, X, Y and all flags are
unchanged, or there is one general register such that the flags are the old flags with Z and N set from its new value
and the other two registers are unchanged. The host can never see a new register value with stale Z and N. -/
def Obligations.RegisterAndFlagsChangeTogether : Prop :=
  ∀ s t : State, step s = .next t →
    (t.flags = s.flags ∧ t.a = s.a ∧ t.x = s.x ∧ t.y = s.y) ∨
    ∃ r : Reg, t.flags = s.flags.setZN (t.readSel (regSel r)) ∧
      ∀ q : Reg, q ≠ r → t.readSel (regSel q) = s.readSel (regSel q)

/-- A read returns the last byte written to its cell; a write changes one cell only, keeps the canonical form, and cannot
fail. (20_memory.md R41, 20_memory.md R42.) For every memory, address and byte: reading the address after the write
gives the byte, every other address reads as before, writing the byte a cell already holds changes no reading, and a
memory in canonical form is again in canonical form. The micro-op WriteMem always answers a next state and changes
memory only. -/
def Obligations.MemoryIsPlainStorage : Prop :=
  (∀ (m : Memory) (k j : Word) (v : Byte), (m.write k v).read k = v ∧ (j ≠ k → (m.write k v).read j = m.read j) ∧
    (m.write k (m.read k)).read j = m.read j ∧ (m.wf = true → (m.write k v).wf = true)) ∧
  (∀ (s : State) (r : Sel), ∃ t, execute (.writeMem r) s = .next t ∧ { t with mem := s.mem } = s) ∧
  (∀ (s : State) (r : Sel), ∃ t, execute (.readMem r) s = .next t ∧ t.mem = s.mem)

/-- Two memories in canonical form that read the same at every address are the same list. (20_memory.md R40, 10_state.md
R28.) If two memories are in the model's canonical form and every one of the 65536 addresses reads the same in both,
they are equal data. The canonical form is the model's own representation (log entry 6). -/
def Obligations.CanonicalMemoriesAreDeterminedByTheirBytes : Prop :=
  ∀ m m' : Memory, m.wf = true → m'.wf = true → (∀ a : Word, m.read a = m'.read a) → m = m'

/-- The invariant holds at reset and after power-on with any parameters and any INIT. (10_state.md R28, 10_state.md R29,
10_state.md R31.) The invariant (canonical memory; IP_OVF = 1 only with IP = 0; the queue a suffix of one existing
instruction's sequence) holds of State.reset and of the power-on state for every setting of the parameters and every
INIT. -/
def Obligations.InvariantHoldsAtReset : Prop :=
  State.reset.Inv ∧ ∀ (cfg : Config) (v : Init), (State.powerOn cfg v).Inv

/-- Every step keeps the invariant: canonical memory, the overflow latch, and a queue that is the rest of one instruction.
(43_microops.md R125, 10_state.md R15, 10_state.md R24, 20_memory.md R40.) For every state with the invariant, if step
answers a next state then that state has it: memory is in canonical form, IP_OVF = 1 only with IP = 0x0000, and the
queue is a suffix of the sequence of one instruction that exists in the machine, so it holds at most 9 micro-ops. -/
def Obligations.EveryStepKeepsTheInvariant : Prop :=
  ∀ s t : State, s.Inv → step s = .next t → t.Inv ∧ t.queue.length ≤ qDepth

/-- reset(), load_program and the launch preconditions keep the invariant. (70_reset_and_hazards.md R216,
70_reset_and_hazards.md R217, R223.) From every state with the invariant: the state after reset() has it and is at an
instruction boundary, the state after an accepted load_program has it, and the state after any launch precondition has
it. -/
def Obligations.HostOperationsKeepTheInvariant : Prop :=
  ∀ s : State, s.Inv →
    (hostReset s).Inv ∧ (hostReset s).Boundary ∧ (∀ bytes t, loadProgram bytes s = .next t → t.Inv) ∧
    ∀ w : HostWrite, (hostWrite w s).Inv

/-- With EXT_STORE false no tick writes memory. (20_memory.md R42, R66.) From every state with the invariant and EXT_STORE
= false, a step that answers a next state leaves memory as it was. -/
def Obligations.BaseMachineNeverWritesMemory : Prop :=
  ∀ s t : State, s.Inv → s.cfg.extStore = false → step s = .next t → t.mem = s.mem

/-- No tick writes SP, the flags C, I, D, B0, B1, V, or the parameters. (10_state.md R12, 10_state.md R17,
42_flag_engine.md R123.) In every step that answers a next state, from any state, the six unconnected flags are
unchanged (R17, R123), and so is SP (R12), and so are the parameters the machine was built with, which State carries
by the model's choice (log entry 2). -/
def Obligations.UnconnectedStateNeverChanges : Prop :=
  ∀ s t : State, step s = .next t →
    t.flags.c = s.flags.c ∧ t.flags.i = s.flags.i ∧ t.flags.d = s.flags.d ∧ t.flags.b0 = s.flags.b0 ∧
    t.flags.b1 = s.flags.b1 ∧ t.flags.v = s.flags.v ∧ t.sp = s.sp ∧ t.cfg = s.cfg

/-- HALTED goes from 0 to 1 only in the fetch-decode tick of the byte 0xFF, and no tick clears it. (10_state.md R19,
41_dispatch.md R108.) For every step that answers a next state: if HALTED was 1 it is 1; if HALTED was 0 and is 1,
then the queue was empty before and is empty after, and the byte at IP was 0xFF. -/
def Obligations.OnlyHltHalts : Prop :=
  ∀ s t : State, step s = .next t →
    (s.halted = true → t.halted = true) ∧
    (s.halted = false → t.halted = true → s.queue = [] ∧ t.queue = [] ∧ s.mem.read s.ip = 0xFF)

/-- IP changes only in ticks that fetch, and then by exactly one as a 17-bit number. (41_dispatch.md R108, 10_state.md
R14, R101, R109.) For every step that answers a next state: if the tick fetches through IP, the 17-bit number
IP_OVF:IP is one more than before (0xFFFF goes to 0x10000, that is IP = 0x0000 with IP_OVF = 1); otherwise IP and
IP_OVF are unchanged. There is no other control transfer. -/
def Obligations.IpMovesByOneInFetchingTicksOnly : Prop :=
  ∀ s t : State, step s = .next t →
    let fetches := s.queue = [] ∨ ∃ u q, s.queue = u :: q ∧ ((∃ r, u = .fetchByte r) ∨ u = .fetchAddrLo ∨ u = .fetchAddrHi)
    (fetches → s.ipOvf = false ∧ t.ip17 = s.ip17 + 1 ∧ (t.ipOvf = true ↔ s.ip = 0xFFFF)) ∧
    (¬fetches → t.ip = s.ip ∧ t.ipOvf = s.ipOvf)

/-- A tick makes at most one memory access, and its result depends on no other cell. (20_memory.md R46.) The cells a tick
reads and writes number at most one together. If another memory agrees on the cells the tick reads, the tick from the
state with that memory also answers a next state, equal to the first but for memory; cells it does not write keep
their bytes. -/
def Obligations.ATickTouchesOneMemoryCell : Prop :=
  ∀ s : State, (tickReads s).length + (tickWrites s).length ≤ 1 ∧
    ∀ (m : Memory) (t : State), (∀ a ∈ tickReads s, m.read a = s.mem.read a) → step s = .next t →
      ∃ t', step { s with mem := m } = .next t' ∧ { t' with mem := t.mem } = t ∧
        (∀ a : Word, a ∉ tickWrites s → t'.mem.read a = m.read a) ∧
        (∀ a : Word, a ∈ tickWrites s → t'.mem.read a = t.mem.read a)

/-- load_program writes the program at 0x8000 and then the reset vector, touches nothing else, and refuses what is too
long. (R216.) Between instructions: a program of at most 0x7FFF bytes is accepted, every element but memory is
unchanged, cell 0xFFFC reads 0x00 and 0xFFFD reads 0x80, every other cell from 0x8000 to 0x8000 + len - 1 reads the
program's byte, and every remaining cell reads as before. A longer one raises ProgramTooLarge with its length, and no
state results. -/
def Obligations.LoadProgramWritesImageAndVector : Prop :=
  ∀ (s : State) (bytes : List Byte), s.Boundary →
    (bytes.length ≤ 0x7FFF → ∃ t, loadProgram bytes s = .next t ∧ { t with mem := s.mem } = s ∧
      t.mem.read 0xFFFC = 0x00 ∧ t.mem.read 0xFFFD = 0x80 ∧
      ∀ a : Word, a ≠ 0xFFFC → a ≠ 0xFFFD →
        (∀ (i : Nat) (h : i < bytes.length), a.toNat = 0x8000 + i → t.mem.read a = bytes[i]) ∧
        ((¬∃ i, i < bytes.length ∧ a.toNat = 0x8000 + i) → t.mem.read a = s.mem.read a)) ∧
    (0x7FFF < bytes.length → loadProgram bytes s = .fault (.programTooLarge bytes.length))

/-- After load_program of at most 0x7FFC bytes memory holds the program exactly, also after reset(), and reset() is
idempotent. (R224.) Between instructions, for a program of at most 0x7FFC bytes: each byte i of it is at 0x8000 + i
after the load and after a following reset(), IP is then 0x8000, and a second reset() changes nothing. -/
def Obligations.LoadedImageSurvivesReset : Prop :=
  ∀ (s t : State) (bytes : List Byte), bytes.length ≤ 0x7FFC → loadProgram bytes s = .next t →
    (∀ (i : Nat) (h : i < bytes.length),
      t.mem.read (BitVec.ofNat 16 (0x8000 + i)) = bytes[i] ∧
      (hostReset t).mem.read (BitVec.ofNat 16 (0x8000 + i)) = bytes[i]) ∧
    (hostReset t).ip = 0x8000 ∧ ∀ u : State, hostReset (hostReset u) = hostReset u

/-- reset() copies the reset vector into IP, clears HALTED, the queue and IP_OVF, and changes nothing else. (R217.) For
every state, also in the middle of an instruction: after reset() IP is M[0xFFFD]:M[0xFFFC], HALTED and IP_OVF are 0,
the queue is empty and every other element is unchanged; a second reset() gives the same state. -/
def Obligations.ResetLoadsTheVector : Prop :=
  ∀ s : State,
    hostReset s = { s with ip := wordOf (s.mem.read 0xFFFD) (s.mem.read 0xFFFC), halted := false, queue := [],
                           ipOvf := false } ∧
    hostReset (hostReset s) = hostReset s

/-- At power-on memory is zero, the queue empty and IP_OVF 0 for every INIT; State.reset is such a state after reset().
(10_state.md R28, R29, R30, R31.) For every parameters and INIT: every address reads 0x00, the queue is empty, IP_OVF
is 0, and after reset() IP is 0x0000 and HALTED 0 with A, X, Y, SP and the flags those of INIT. State.reset is that
state for the base parameters and the zero INIT: the zero values are the model's choice (log entry 1), the rest are
the spec's. -/
def Obligations.PowerOnAndResetState : Prop :=
  (∀ (cfg : Config) (v : Init) (k : Word),
    (State.powerOn cfg v).mem.read k = 0x00 ∧ (State.powerOn cfg v).queue = [] ∧ (State.powerOn cfg v).ipOvf = false ∧
    (hostReset (State.powerOn cfg v)).ip = 0x0000 ∧ (hostReset (State.powerOn cfg v)).halted = false ∧
    (hostReset (State.powerOn cfg v)).a = v.a ∧ (hostReset (State.powerOn cfg v)).x = v.x ∧
    (hostReset (State.powerOn cfg v)).y = v.y ∧ (hostReset (State.powerOn cfg v)).sp = v.sp ∧
    (hostReset (State.powerOn cfg v)).flags = ⟨v.c, v.z, v.i, v.d, v.b0, v.b1, v.v, v.n⟩) ∧
  State.reset = hostReset (State.powerOn .base .zero)

/-- The boot sequence ends at the program's first byte, so that the first step runs its first instruction.
(70_reset_and_hazards.md R221, R222, 70_reset_and_hazards.md R216.) For every parameters, INIT, program that
load_program accepts (0 to 0x7FFF bytes) and launch preconditions, on registers, SP, flags and any memory cell but the
two of the reset vector: boot answers a state with IP = 0x8000, HALTED 0, the queue empty and IP_OVF 0, and the first
step is exec of the instruction the byte at 0x8000 decodes to, with IP = 0x8001. Where the program is not empty and no
precondition sets cell 0x8000, that byte is the program's first. -/
def Obligations.BootReachesTheProgram : Prop :=
  ∀ (cfg : Config) (v : Init) (program : List Byte) (pre : List HostWrite), program.length ≤ 0x7FFF →
    (∀ w ∈ pre, ∀ u, w ≠ .cell 0xFFFC u ∧ w ≠ .cell 0xFFFD u) →
    ∃ t, boot cfg v program pre = .next t ∧ t.ip = 0x8000 ∧ t.halted = false ∧ t.queue = [] ∧ t.ipOvf = false ∧
      t.cfg = cfg ∧ step t = exec (decodeOpcode cfg (t.mem.read 0x8000)) { t with ip := 0x8001 } ∧
      ∀ (b : Byte) (bs : List Byte), program = b :: bs → (∀ w ∈ pre, ∀ u, w ≠ .cell 0x8000 u) →
        t.mem.read 0x8000 = b ∧ step t = exec (decodeOpcode cfg b) { t with ip := 0x8001 }

/-- Every run ends, halted or faulted, within 65536 * 10 + 1 ticks from an instruction boundary. (41_dispatch.md R111,
70_reset_and_hazards.md R228.) From every state, a run of more ticks than the queue's length plus ten times the bytes
left below 0x10000 does not stay unfinished and is not refused: it is halted or faulted. From a boundary 655361 ticks
are enough. This holds with the extension on or off: the table has no control transfer. That run is cut off after a
number of ticks is the model's choice (log entry 9). -/
def Obligations.EveryRunEnds : Prop :=
  (∀ (s : State) (n : Nat), s.queue.length + 10 * (0x10000 - s.ip17) < n →
    (∃ t, run n s = .halted t) ∨ ∃ f t, run n s = .faulted f t) ∧
  (∀ (s : State) (n : Nat), s.Boundary → 65536 * 10 + 1 ≤ n →
    (∃ t, run n s = .halted t) ∨ ∃ f t, run n s = .faulted f t)

/-- run() tests HALTED before each tick, stops at a fault and returns it; a halted run ends past a HLT byte, a faulted one
before its tick. (70_reset_and_hazards.md R220, 41_dispatch.md R111, 60_exceptions.md R194.) A run on a core with
HALTED = 1 takes no tick and answers that state unchanged. From HALTED = 0: a run of one more tick is, where step
answers a next state, the rest of the run from it, and, where step raises, that fault with the state before the tick;
with no tick allowed it is unfinished, the cut-off being the model's choice (log entry 9). If the run halts, the final
state has HALTED = 1, an empty queue and a 0xFF byte just before IP; if it faults, the state is one from which step
raises that fault, which is OutOfRangeAccess(ip_dereference), and HALTED is 0 in it. -/
def Obligations.RunOutcomes : Prop :=
  ∀ (s : State) (n : Nat),
    (s.halted = true → run n s = .halted s) ∧
    (s.halted = false →
      run 0 s = .unfinished s ∧
      (∀ t, step s = .next t → run (n + 1) s = run n t) ∧
      (∀ f, step s = .fault f → run (n + 1) s = .faulted f s) ∧
      (∀ t, run n s = .halted t → t.halted = true ∧ t.queue = [] ∧ t.mem.read (t.ip - 1) = 0xFF) ∧
      (∀ f t, run n s = .faulted f t → step t = .fault f ∧ f = .outOfRangeAccess .ipDereference 0x10000 ∧ t.halted = false))

/-- reset() in the middle of a load abandons it: the queue is emptied and the target register and flags are as before the
load. (R229.) For every load ready to execute, after its fetch-decode tick and any number of its micro-ops short of
all of them, and for every store likewise: the state after reset() has an empty queue, IP the vector, HALTED 0, A, X,
Y, SP, the flags and memory as before the instruction, and EAP, T0, T1 as the ticks taken left them. -/
def Obligations.ResetAbandonsTheInstructionInProgress : Prop :=
  ∀ (i : Instr) (s t u : State) (k : Nat), s.Ready i → exec i s = .next t → k < t.queue.length → finish k t = .next u →
    (hostReset u).queue = [] ∧ (hostReset u).ip = wordOf (s.mem.read 0xFFFD) (s.mem.read 0xFFFC) ∧
    (hostReset u).ipOvf = false ∧ (hostReset u).a = s.a ∧ (hostReset u).x = s.x ∧ (hostReset u).y = s.y ∧
    (hostReset u).flags = s.flags ∧ (hostReset u).mem = s.mem ∧ (hostReset u).sp = s.sp ∧ (hostReset u).halted = false ∧
    (hostReset u).eah = u.eah ∧ (hostReset u).eal = u.eal ∧ (hostReset u).t0 = u.t0 ∧ (hostReset u).t1 = u.t1

/-- The state withFetchWord gives runs exactly the table word's instruction at its next step, in the base machine.
(41_dispatch.md R105, 30_encoding.md R74.) For every state, number of bits and word: the step from withFetchWord is
exec of the instruction whose opcode byte is the word's low byte, with IP advanced by one; withFetchWord changes only
the queue, IP_OVF and memory, and in the base machine decodeTableWord answers that very instruction. How withFetchWord
places it is the model's choice (log entry 4). -/
def Obligations.PlacedInstructionIsTheOneThatRuns : Prop :=
  ∀ (s : State) (nbits w : Nat),
    step (s.withFetchWord nbits w) =
      exec (decodeOpcode s.cfg (BitVec.ofNat 8 (w % 2 ^ nbits)))
        { s.withFetchWord nbits w with ip := s.ip + 1, ipOvf := s.ip == 0xFFFF } ∧
    { s.withFetchWord nbits w with queue := s.queue, ipOvf := s.ipOvf, mem := s.mem } = s ∧
    decodeTableWord nbits w = some (decodeOpcode .base (BitVec.ofNat 8 (w % 2 ^ nbits)))

/-- An instruction that lies inside memory runs safely, in its number of ticks, to the next instruction boundary.
(41_dispatch.md R108, 60_exceptions.md R191, 70_reset_and_hazards.md R230.) From every state at a boundary with IP_OVF
= 0 whose instruction (the one the byte at IP decodes to) has its operand bytes inside memory: the fetch-decode tick
and the ticks of its micro-ops are safe (none raises, none is refused), and the state they end in is at a boundary
with IP past the instruction. -/
def Obligations.InstructionInsideMemoryRunsToTheNextBoundary : Prop :=
  ∀ s : State, s.Boundary → s.ipOvf = false →
    let i := decodeOpcode s.cfg (s.mem.read s.ip)
    s.ip.toNat + i.mode.operandBytes ≤ 0xFFFF →
      SafeFor (instrTicks i) s ∧
      ∀ u, finish (instrTicks i) s = .next u → u.Boundary ∧ u.ip17 = s.ip.toNat + i.length
end

