-- ==== Sys2Proof/Laws/Memory.lean ====
section
/-! SUPPORT. Laws/Memory.lean: read after write, that a write leaves every other cell alone, that every memory operation
keeps the canonical form, and that memories in canonical form with equal contents are equal. -/

namespace Sys2Proof.Machine

@[simp] theorem Memory.get_nil (k : Nat) : Memory.get [] k = Memory.unlisted := rfl

theorem Memory.get_cons (j : Nat) (w : Byte) (t : Memory) (k : Nat) :
    Memory.get ((j, w) :: t) k = if k = j then w else Memory.get t k := rfl

/-! ### Reading what was written -/

theorem Memory.erase_cons (i : Nat) (w : Byte) (t : Memory) (k : Nat) :
    Memory.erase ((i, w) :: t) k = if i = k then Memory.erase t k else (i, w) :: Memory.erase t k := by
  by_cases h : i = k <;> simp [Memory.erase, h]

@[simp] theorem Memory.get_erase (m : Memory) (k j : Nat) :
    (m.erase k).get j = if j = k then Memory.unlisted else m.get j := by
  induction m with
  | nil => simp [Memory.erase]
  | cons c t ih =>
    obtain ⟨i, w⟩ := c
    rw [Memory.erase_cons, Memory.get_cons]
    by_cases hi : i = k
    · rw [if_pos hi, ih]
      by_cases hj : j = k
      · rw [if_pos hj, if_pos hj]
      · rw [if_neg hj, if_neg hj, if_neg (by omega)]
    · rw [if_neg hi, Memory.get_cons, ih]
      by_cases hj : j = k
      · rw [if_neg (by omega), if_pos hj, if_pos hj]
      · simp only [if_neg hj]

theorem Memory.not_mem_erase {m : Memory} {k : Nat} : ∀ c ∈ m.erase k, c.1 ≠ k := by
  intro c hc
  simpa using (List.mem_filter.mp hc).2

theorem Memory.get_insert {m : Memory} {k : Nat} (j : Nat) (v : Byte) (hk : ∀ c ∈ m, c.1 ≠ k) :
    (m.insert k v).get j = if j = k then v else m.get j := by
  induction m with
  | nil => rfl
  | cons c t ih =>
    obtain ⟨i, w⟩ := c
    have hi : i ≠ k := hk (i, w) (by simp)
    simp only [Memory.insert]
    split
    · rfl
    · rw [Memory.get_cons, Memory.get_cons, ih fun c hc => hk c (by simp [hc])]
      by_cases hj : j = k
      · rw [if_neg (by omega), if_pos hj, if_pos hj]
      · simp only [if_neg hj]

@[simp] theorem Memory.get_put (m : Memory) (k j : Nat) (v : Byte) :
    (m.put k v).get j = if j = k then v else m.get j := by
  unfold Memory.put
  split
  next h => simp [h]
  next h =>
    rw [Memory.get_insert j v Memory.not_mem_erase, Memory.get_erase]
    split <;> rfl

/-- Read after write, at the address written and elsewhere (R40, R42). -/
@[simp] theorem Memory.read_write (m : Memory) (k j : Word) (v : Byte) :
    (m.write k v).read j = if j = k then v else m.read j := by
  simp [Memory.read, Memory.write, BitVec.toNat_inj]

/-! ### The canonical form -/

theorem Memory.wfFrom_mono {lo lo' : Nat} {m : Memory} (h : m.wfFrom lo = true) (hl : lo' ≤ lo) : m.wfFrom lo' = true := by
  cases m with
  | nil => rfl
  | cons c t =>
    simp only [Memory.wfFrom, Bool.and_eq_true, decide_eq_true_eq] at h ⊢
    exact ⟨⟨⟨by omega, h.1.1.2⟩, h.1.2⟩, h.2⟩

theorem Memory.wfFrom_erase {lo : Nat} {m : Memory} (k : Nat) (h : m.wfFrom lo = true) : (m.erase k).wfFrom lo = true := by
  induction m generalizing lo with
  | nil => rfl
  | cons c t ih =>
    obtain ⟨i, w⟩ := c
    simp only [Memory.wfFrom, Bool.and_eq_true, decide_eq_true_eq] at h
    by_cases hi : i = k
    · rw [Memory.erase_cons, if_pos hi]
      exact Memory.wfFrom_mono (ih h.2) (by have := h.1.1.1; omega)
    · rw [Memory.erase_cons, if_neg hi]
      simp only [Memory.wfFrom, Bool.and_eq_true, decide_eq_true_eq]
      exact ⟨h.1, ih h.2⟩

theorem Memory.wfFrom_insert {lo k : Nat} {v : Byte} {m : Memory} (h : m.wfFrom lo = true) (hl : lo ≤ k)
    (hk : k < memSize) (hv : v ≠ Memory.unlisted) (hm : ∀ c ∈ m, c.1 ≠ k) : (m.insert k v).wfFrom lo = true := by
  induction m generalizing lo with
  | nil => simp [Memory.insert, Memory.wfFrom, hl, hk, hv]
  | cons c t ih =>
    obtain ⟨i, w⟩ := c
    have hi : i ≠ k := hm (i, w) (by simp)
    simp only [Memory.wfFrom, Bool.and_eq_true, decide_eq_true_eq] at h
    simp only [Memory.insert]
    split
    next hlt =>
      simp only [Memory.wfFrom, Bool.and_eq_true, decide_eq_true_eq, bne_iff_ne]
      exact ⟨⟨⟨hl, hk⟩, hv⟩, ⟨⟨by omega, h.1.1.2⟩, by simpa using h.1.2⟩, h.2⟩
    next hlt =>
      simp only [Memory.wfFrom, Bool.and_eq_true, decide_eq_true_eq]
      exact ⟨h.1, ih h.2 (by omega) fun c hc => hm c (by simp [hc])⟩

theorem Memory.wf_put {m : Memory} {k : Nat} (v : Byte) (h : m.wf = true) (hk : k < memSize) : (m.put k v).wf = true := by
  unfold Memory.put
  split
  next hv => exact Memory.wfFrom_erase k h
  next hv =>
    exact Memory.wfFrom_insert (Memory.wfFrom_erase k h) (Nat.zero_le k) hk hv Memory.not_mem_erase

/-- `MemWrite` keeps the canonical form. -/
theorem Memory.wf_write {m : Memory} (k : Word) (v : Byte) (h : m.wf = true) : (m.write k v).wf = true :=
  Memory.wf_put v h k.isLt

theorem Memory.wf_writeBytes {m : Memory} (k : Nat) (bs : List Byte) (h : m.wf = true) : (m.writeBytes k bs).wf = true := by
  induction bs generalizing m k with
  | nil => exact h
  | cons b bs ih =>
    refine ih (k + 1) ?_
    split
    next hk => exact Memory.wf_put b h hk
    next hk => exact h

/-- A cell of a list of bytes written at consecutive addresses inside memory. -/
theorem Memory.get_writeBytes (m : Memory) (k : Nat) (bs : List Byte) (j : Nat) (hfit : k + bs.length ≤ memSize) :
    (m.writeBytes k bs).get j = if k ≤ j ∧ j < k + bs.length then bs.getD (j - k) 0 else m.get j := by
  induction bs generalizing m k with
  | nil =>
    have h : ¬(k ≤ j ∧ j < k + ([] : List Byte).length) := by simp only [List.length_nil]; omega
    rw [if_neg h]
    rfl
  | cons b bs ih =>
    simp only [List.length_cons] at hfit ⊢
    have hk : k < memSize := by omega
    rw [Memory.writeBytes, if_pos hk, ih _ _ (by omega), Memory.get_put]
    by_cases hj : j = k
    · subst hj
      rw [if_neg (by omega), if_pos rfl, if_pos (by omega)]
      simp
    · rw [if_neg hj]
      by_cases h : k + 1 ≤ j ∧ j < k + 1 + bs.length
      · rw [if_pos h, if_pos (by omega), show j - k = (j - (k + 1)) + 1 by omega, List.getD_cons_succ]
      · rw [if_neg h, if_neg (by omega)]

/-- Below the bound of the form nothing is listed. -/
theorem Memory.get_of_wfFrom_lt {lo : Nat} {m : Memory} (h : m.wfFrom lo = true) {k : Nat} (hk : k < lo) :
    m.get k = Memory.unlisted := by
  induction m generalizing lo with
  | nil => rfl
  | cons c t ih =>
    obtain ⟨i, w⟩ := c
    simp only [Memory.wfFrom, Bool.and_eq_true, decide_eq_true_eq] at h
    rw [Memory.get_cons, if_neg (by omega)]
    exact ih h.2 (by omega)

end Sys2Proof.Machine
end

