-- ==== Sys2Proof/Laws/State.lean ====
section
/-! SUPPORT. Laws/State.lean: for each named update of the state, what each field of the result is. -/

namespace Sys2Proof.Machine

/-! ### setZN -/

@[simp] theorem State.setZN_cfg (s : State) (v : Byte) : (s.setZN v).cfg = s.cfg := rfl
@[simp] theorem State.setZN_a (s : State) (v : Byte) : (s.setZN v).a = s.a := rfl
@[simp] theorem State.setZN_x (s : State) (v : Byte) : (s.setZN v).x = s.x := rfl
@[simp] theorem State.setZN_y (s : State) (v : Byte) : (s.setZN v).y = s.y := rfl
@[simp] theorem State.setZN_sp (s : State) (v : Byte) : (s.setZN v).sp = s.sp := rfl
@[simp] theorem State.setZN_ip (s : State) (v : Byte) : (s.setZN v).ip = s.ip := rfl
@[simp] theorem State.setZN_ipOvf (s : State) (v : Byte) : (s.setZN v).ipOvf = s.ipOvf := rfl
@[simp] theorem State.setZN_flags (s : State) (v : Byte) : (s.setZN v).flags = s.flags.setZN v := rfl
@[simp] theorem State.setZN_halted (s : State) (v : Byte) : (s.setZN v).halted = s.halted := rfl
@[simp] theorem State.setZN_eah (s : State) (v : Byte) : (s.setZN v).eah = s.eah := rfl
@[simp] theorem State.setZN_eal (s : State) (v : Byte) : (s.setZN v).eal = s.eal := rfl
@[simp] theorem State.setZN_t0 (s : State) (v : Byte) : (s.setZN v).t0 = s.t0 := rfl
@[simp] theorem State.setZN_t1 (s : State) (v : Byte) : (s.setZN v).t1 = s.t1 := rfl
@[simp] theorem State.setZN_queue (s : State) (v : Byte) : (s.setZN v).queue = s.queue := rfl
@[simp] theorem State.setZN_mem (s : State) (v : Byte) : (s.setZN v).mem = s.mem := rfl

/-! ### setHalted -/

@[simp] theorem State.setHalted_cfg (s : State) (v : Bool) : (s.setHalted v).cfg = s.cfg := rfl
@[simp] theorem State.setHalted_a (s : State) (v : Bool) : (s.setHalted v).a = s.a := rfl
@[simp] theorem State.setHalted_x (s : State) (v : Bool) : (s.setHalted v).x = s.x := rfl
@[simp] theorem State.setHalted_y (s : State) (v : Bool) : (s.setHalted v).y = s.y := rfl
@[simp] theorem State.setHalted_sp (s : State) (v : Bool) : (s.setHalted v).sp = s.sp := rfl
@[simp] theorem State.setHalted_ip (s : State) (v : Bool) : (s.setHalted v).ip = s.ip := rfl
@[simp] theorem State.setHalted_ipOvf (s : State) (v : Bool) : (s.setHalted v).ipOvf = s.ipOvf := rfl
@[simp] theorem State.setHalted_flags (s : State) (v : Bool) : (s.setHalted v).flags = s.flags := rfl
@[simp] theorem State.setHalted_halted (s : State) (v : Bool) : (s.setHalted v).halted = v := rfl
@[simp] theorem State.setHalted_eah (s : State) (v : Bool) : (s.setHalted v).eah = s.eah := rfl
@[simp] theorem State.setHalted_eal (s : State) (v : Bool) : (s.setHalted v).eal = s.eal := rfl
@[simp] theorem State.setHalted_t0 (s : State) (v : Bool) : (s.setHalted v).t0 = s.t0 := rfl
@[simp] theorem State.setHalted_t1 (s : State) (v : Bool) : (s.setHalted v).t1 = s.t1 := rfl
@[simp] theorem State.setHalted_queue (s : State) (v : Bool) : (s.setHalted v).queue = s.queue := rfl
@[simp] theorem State.setHalted_mem (s : State) (v : Bool) : (s.setHalted v).mem = s.mem := rfl

/-! ### store -/

@[simp] theorem State.store_cfg (s : State) (k : Word) (v : Byte) : (s.store k v).cfg = s.cfg := rfl
@[simp] theorem State.store_a (s : State) (k : Word) (v : Byte) : (s.store k v).a = s.a := rfl
@[simp] theorem State.store_x (s : State) (k : Word) (v : Byte) : (s.store k v).x = s.x := rfl
@[simp] theorem State.store_y (s : State) (k : Word) (v : Byte) : (s.store k v).y = s.y := rfl
@[simp] theorem State.store_sp (s : State) (k : Word) (v : Byte) : (s.store k v).sp = s.sp := rfl
@[simp] theorem State.store_ip (s : State) (k : Word) (v : Byte) : (s.store k v).ip = s.ip := rfl
@[simp] theorem State.store_ipOvf (s : State) (k : Word) (v : Byte) : (s.store k v).ipOvf = s.ipOvf := rfl
@[simp] theorem State.store_flags (s : State) (k : Word) (v : Byte) : (s.store k v).flags = s.flags := rfl
@[simp] theorem State.store_halted (s : State) (k : Word) (v : Byte) : (s.store k v).halted = s.halted := rfl
@[simp] theorem State.store_eah (s : State) (k : Word) (v : Byte) : (s.store k v).eah = s.eah := rfl
@[simp] theorem State.store_eal (s : State) (k : Word) (v : Byte) : (s.store k v).eal = s.eal := rfl
@[simp] theorem State.store_t0 (s : State) (k : Word) (v : Byte) : (s.store k v).t0 = s.t0 := rfl
@[simp] theorem State.store_t1 (s : State) (k : Word) (v : Byte) : (s.store k v).t1 = s.t1 := rfl
@[simp] theorem State.store_queue (s : State) (k : Word) (v : Byte) : (s.store k v).queue = s.queue := rfl
@[simp] theorem State.store_mem (s : State) (k : Word) (v : Byte) : (s.store k v).mem = s.mem.write k v := rfl

/-! ### setEal -/

@[simp] theorem State.setEal_cfg (s : State) (v : Byte) : (s.setEal v).cfg = s.cfg := rfl
@[simp] theorem State.setEal_a (s : State) (v : Byte) : (s.setEal v).a = s.a := rfl
@[simp] theorem State.setEal_x (s : State) (v : Byte) : (s.setEal v).x = s.x := rfl
@[simp] theorem State.setEal_y (s : State) (v : Byte) : (s.setEal v).y = s.y := rfl
@[simp] theorem State.setEal_sp (s : State) (v : Byte) : (s.setEal v).sp = s.sp := rfl
@[simp] theorem State.setEal_ip (s : State) (v : Byte) : (s.setEal v).ip = s.ip := rfl
@[simp] theorem State.setEal_ipOvf (s : State) (v : Byte) : (s.setEal v).ipOvf = s.ipOvf := rfl
@[simp] theorem State.setEal_flags (s : State) (v : Byte) : (s.setEal v).flags = s.flags := rfl
@[simp] theorem State.setEal_halted (s : State) (v : Byte) : (s.setEal v).halted = s.halted := rfl
@[simp] theorem State.setEal_eah (s : State) (v : Byte) : (s.setEal v).eah = s.eah := rfl
@[simp] theorem State.setEal_eal (s : State) (v : Byte) : (s.setEal v).eal = v := rfl
@[simp] theorem State.setEal_t0 (s : State) (v : Byte) : (s.setEal v).t0 = s.t0 := rfl
@[simp] theorem State.setEal_t1 (s : State) (v : Byte) : (s.setEal v).t1 = s.t1 := rfl
@[simp] theorem State.setEal_queue (s : State) (v : Byte) : (s.setEal v).queue = s.queue := rfl
@[simp] theorem State.setEal_mem (s : State) (v : Byte) : (s.setEal v).mem = s.mem := rfl

/-! ### setEah -/

@[simp] theorem State.setEah_cfg (s : State) (v : Byte) : (s.setEah v).cfg = s.cfg := rfl
@[simp] theorem State.setEah_a (s : State) (v : Byte) : (s.setEah v).a = s.a := rfl
@[simp] theorem State.setEah_x (s : State) (v : Byte) : (s.setEah v).x = s.x := rfl
@[simp] theorem State.setEah_y (s : State) (v : Byte) : (s.setEah v).y = s.y := rfl
@[simp] theorem State.setEah_sp (s : State) (v : Byte) : (s.setEah v).sp = s.sp := rfl
@[simp] theorem State.setEah_ip (s : State) (v : Byte) : (s.setEah v).ip = s.ip := rfl
@[simp] theorem State.setEah_ipOvf (s : State) (v : Byte) : (s.setEah v).ipOvf = s.ipOvf := rfl
@[simp] theorem State.setEah_flags (s : State) (v : Byte) : (s.setEah v).flags = s.flags := rfl
@[simp] theorem State.setEah_halted (s : State) (v : Byte) : (s.setEah v).halted = s.halted := rfl
@[simp] theorem State.setEah_eah (s : State) (v : Byte) : (s.setEah v).eah = v := rfl
@[simp] theorem State.setEah_eal (s : State) (v : Byte) : (s.setEah v).eal = s.eal := rfl
@[simp] theorem State.setEah_t0 (s : State) (v : Byte) : (s.setEah v).t0 = s.t0 := rfl
@[simp] theorem State.setEah_t1 (s : State) (v : Byte) : (s.setEah v).t1 = s.t1 := rfl
@[simp] theorem State.setEah_queue (s : State) (v : Byte) : (s.setEah v).queue = s.queue := rfl
@[simp] theorem State.setEah_mem (s : State) (v : Byte) : (s.setEah v).mem = s.mem := rfl

/-! ### enqueue -/

@[simp] theorem State.enqueue_cfg (s : State) (q : List MicroOp) : (s.enqueue q).cfg = s.cfg := rfl
@[simp] theorem State.enqueue_a (s : State) (q : List MicroOp) : (s.enqueue q).a = s.a := rfl
@[simp] theorem State.enqueue_x (s : State) (q : List MicroOp) : (s.enqueue q).x = s.x := rfl
@[simp] theorem State.enqueue_y (s : State) (q : List MicroOp) : (s.enqueue q).y = s.y := rfl
@[simp] theorem State.enqueue_sp (s : State) (q : List MicroOp) : (s.enqueue q).sp = s.sp := rfl
@[simp] theorem State.enqueue_ip (s : State) (q : List MicroOp) : (s.enqueue q).ip = s.ip := rfl
@[simp] theorem State.enqueue_ipOvf (s : State) (q : List MicroOp) : (s.enqueue q).ipOvf = s.ipOvf := rfl
@[simp] theorem State.enqueue_flags (s : State) (q : List MicroOp) : (s.enqueue q).flags = s.flags := rfl
@[simp] theorem State.enqueue_halted (s : State) (q : List MicroOp) : (s.enqueue q).halted = s.halted := rfl
@[simp] theorem State.enqueue_eah (s : State) (q : List MicroOp) : (s.enqueue q).eah = s.eah := rfl
@[simp] theorem State.enqueue_eal (s : State) (q : List MicroOp) : (s.enqueue q).eal = s.eal := rfl
@[simp] theorem State.enqueue_t0 (s : State) (q : List MicroOp) : (s.enqueue q).t0 = s.t0 := rfl
@[simp] theorem State.enqueue_t1 (s : State) (q : List MicroOp) : (s.enqueue q).t1 = s.t1 := rfl
@[simp] theorem State.enqueue_queue (s : State) (q : List MicroOp) : (s.enqueue q).queue = s.queue ++ q := rfl
@[simp] theorem State.enqueue_mem (s : State) (q : List MicroOp) : (s.enqueue q).mem = s.mem := rfl

/-! ### dequeue -/

@[simp] theorem State.dequeue_cfg (s : State) : (s.dequeue).cfg = s.cfg := rfl
@[simp] theorem State.dequeue_a (s : State) : (s.dequeue).a = s.a := rfl
@[simp] theorem State.dequeue_x (s : State) : (s.dequeue).x = s.x := rfl
@[simp] theorem State.dequeue_y (s : State) : (s.dequeue).y = s.y := rfl
@[simp] theorem State.dequeue_sp (s : State) : (s.dequeue).sp = s.sp := rfl
@[simp] theorem State.dequeue_ip (s : State) : (s.dequeue).ip = s.ip := rfl
@[simp] theorem State.dequeue_ipOvf (s : State) : (s.dequeue).ipOvf = s.ipOvf := rfl
@[simp] theorem State.dequeue_flags (s : State) : (s.dequeue).flags = s.flags := rfl
@[simp] theorem State.dequeue_halted (s : State) : (s.dequeue).halted = s.halted := rfl
@[simp] theorem State.dequeue_eah (s : State) : (s.dequeue).eah = s.eah := rfl
@[simp] theorem State.dequeue_eal (s : State) : (s.dequeue).eal = s.eal := rfl
@[simp] theorem State.dequeue_t0 (s : State) : (s.dequeue).t0 = s.t0 := rfl
@[simp] theorem State.dequeue_t1 (s : State) : (s.dequeue).t1 = s.t1 := rfl
@[simp] theorem State.dequeue_queue (s : State) : (s.dequeue).queue = s.queue.tail := rfl
@[simp] theorem State.dequeue_mem (s : State) : (s.dequeue).mem = s.mem := rfl

/-! ### placeInstruction -/

@[simp] theorem State.placeInstruction_cfg (s : State) (bs : List Byte) : (s.placeInstruction bs).cfg = s.cfg := rfl
@[simp] theorem State.placeInstruction_a (s : State) (bs : List Byte) : (s.placeInstruction bs).a = s.a := rfl
@[simp] theorem State.placeInstruction_x (s : State) (bs : List Byte) : (s.placeInstruction bs).x = s.x := rfl
@[simp] theorem State.placeInstruction_y (s : State) (bs : List Byte) : (s.placeInstruction bs).y = s.y := rfl
@[simp] theorem State.placeInstruction_sp (s : State) (bs : List Byte) : (s.placeInstruction bs).sp = s.sp := rfl
@[simp] theorem State.placeInstruction_ip (s : State) (bs : List Byte) : (s.placeInstruction bs).ip = s.ip := rfl
@[simp] theorem State.placeInstruction_ipOvf (s : State) (bs : List Byte) : (s.placeInstruction bs).ipOvf = false := rfl
@[simp] theorem State.placeInstruction_flags (s : State) (bs : List Byte) : (s.placeInstruction bs).flags = s.flags := rfl
@[simp] theorem State.placeInstruction_halted (s : State) (bs : List Byte) : (s.placeInstruction bs).halted = s.halted := rfl
@[simp] theorem State.placeInstruction_eah (s : State) (bs : List Byte) : (s.placeInstruction bs).eah = s.eah := rfl
@[simp] theorem State.placeInstruction_eal (s : State) (bs : List Byte) : (s.placeInstruction bs).eal = s.eal := rfl
@[simp] theorem State.placeInstruction_t0 (s : State) (bs : List Byte) : (s.placeInstruction bs).t0 = s.t0 := rfl
@[simp] theorem State.placeInstruction_t1 (s : State) (bs : List Byte) : (s.placeInstruction bs).t1 = s.t1 := rfl
@[simp] theorem State.placeInstruction_queue (s : State) (bs : List Byte) : (s.placeInstruction bs).queue = [] := rfl
@[simp] theorem State.placeInstruction_mem (s : State) (bs : List Byte) : (s.placeInstruction bs).mem = s.mem.writeBytes s.ip.toNat bs := rfl

/-! ### hostReset -/

@[simp] theorem hostReset_cfg (s : State) : (hostReset s).cfg = s.cfg := rfl
@[simp] theorem hostReset_a (s : State) : (hostReset s).a = s.a := rfl
@[simp] theorem hostReset_x (s : State) : (hostReset s).x = s.x := rfl
@[simp] theorem hostReset_y (s : State) : (hostReset s).y = s.y := rfl
@[simp] theorem hostReset_sp (s : State) : (hostReset s).sp = s.sp := rfl
@[simp] theorem hostReset_ip (s : State) : (hostReset s).ip = s.mem.readWord resetVectorLo resetVectorHi := rfl
@[simp] theorem hostReset_ipOvf (s : State) : (hostReset s).ipOvf = false := rfl
@[simp] theorem hostReset_flags (s : State) : (hostReset s).flags = s.flags := rfl
@[simp] theorem hostReset_halted (s : State) : (hostReset s).halted = false := rfl
@[simp] theorem hostReset_eah (s : State) : (hostReset s).eah = s.eah := rfl
@[simp] theorem hostReset_eal (s : State) : (hostReset s).eal = s.eal := rfl
@[simp] theorem hostReset_t0 (s : State) : (hostReset s).t0 = s.t0 := rfl
@[simp] theorem hostReset_t1 (s : State) : (hostReset s).t1 = s.t1 := rfl
@[simp] theorem hostReset_queue (s : State) : (hostReset s).queue = [] := rfl
@[simp] theorem hostReset_mem (s : State) : (hostReset s).mem = s.mem := rfl

/-! ### advanceIp -/

/-- `IP[15:0]` of the 17-bit sum is the word sum, and its bit 16 is set exactly from 0xFFFF (R15, R101). -/
@[simp] theorem State.advanceIp_ip (s : State) : s.advanceIp.ip = s.ip + 1 := by
  simp only [State.advanceIp]
  apply BitVec.eq_of_toNat_eq
  simp [BitVec.extractLsb'_toNat]

@[simp] theorem State.advanceIp_ipOvf (s : State) : s.advanceIp.ipOvf = (s.ip == 0xFFFF) := by
  simp only [State.advanceIp, BitVec.getLsbD, BitVec.toNat_add, BitVec.toNat_setWidth]
  have := s.ip.isLt
  rw [Bool.eq_iff_iff, Nat.testBit_eq_decide_div_mod_eq]
  simp [← BitVec.toNat_inj]
  omega
@[simp] theorem State.advanceIp_cfg (s : State) : s.advanceIp.cfg = s.cfg := rfl
@[simp] theorem State.advanceIp_a (s : State) : s.advanceIp.a = s.a := rfl
@[simp] theorem State.advanceIp_x (s : State) : s.advanceIp.x = s.x := rfl
@[simp] theorem State.advanceIp_y (s : State) : s.advanceIp.y = s.y := rfl
@[simp] theorem State.advanceIp_sp (s : State) : s.advanceIp.sp = s.sp := rfl
@[simp] theorem State.advanceIp_flags (s : State) : s.advanceIp.flags = s.flags := rfl
@[simp] theorem State.advanceIp_halted (s : State) : s.advanceIp.halted = s.halted := rfl
@[simp] theorem State.advanceIp_eah (s : State) : s.advanceIp.eah = s.eah := rfl
@[simp] theorem State.advanceIp_eal (s : State) : s.advanceIp.eal = s.eal := rfl
@[simp] theorem State.advanceIp_t0 (s : State) : s.advanceIp.t0 = s.t0 := rfl
@[simp] theorem State.advanceIp_t1 (s : State) : s.advanceIp.t1 = s.t1 := rfl
@[simp] theorem State.advanceIp_queue (s : State) : s.advanceIp.queue = s.queue := rfl
@[simp] theorem State.advanceIp_mem (s : State) : s.advanceIp.mem = s.mem := rfl

/-! ### writeSel -/

@[simp] theorem State.writeSel_cfg (s : State) (t : Sel) (v : Byte) : (s.writeSel t v).cfg = s.cfg := by
  cases t <;> rfl
@[simp] theorem State.writeSel_a (s : State) (t : Sel) (v : Byte) : (s.writeSel t v).a = if t = .a then v else s.a := by
  cases t <;> rfl
@[simp] theorem State.writeSel_x (s : State) (t : Sel) (v : Byte) : (s.writeSel t v).x = if t = .x then v else s.x := by
  cases t <;> rfl
@[simp] theorem State.writeSel_y (s : State) (t : Sel) (v : Byte) : (s.writeSel t v).y = if t = .y then v else s.y := by
  cases t <;> rfl
@[simp] theorem State.writeSel_sp (s : State) (t : Sel) (v : Byte) : (s.writeSel t v).sp = s.sp := by
  cases t <;> rfl
@[simp] theorem State.writeSel_ip (s : State) (t : Sel) (v : Byte) : (s.writeSel t v).ip = s.ip := by
  cases t <;> rfl
@[simp] theorem State.writeSel_ipOvf (s : State) (t : Sel) (v : Byte) : (s.writeSel t v).ipOvf = s.ipOvf := by
  cases t <;> rfl
@[simp] theorem State.writeSel_flags (s : State) (t : Sel) (v : Byte) : (s.writeSel t v).flags = s.flags := by
  cases t <;> rfl
@[simp] theorem State.writeSel_halted (s : State) (t : Sel) (v : Byte) : (s.writeSel t v).halted = s.halted := by
  cases t <;> rfl
@[simp] theorem State.writeSel_eah (s : State) (t : Sel) (v : Byte) : (s.writeSel t v).eah = s.eah := by
  cases t <;> rfl
@[simp] theorem State.writeSel_eal (s : State) (t : Sel) (v : Byte) : (s.writeSel t v).eal = s.eal := by
  cases t <;> rfl
@[simp] theorem State.writeSel_t0 (s : State) (t : Sel) (v : Byte) : (s.writeSel t v).t0 = if t = .t0 then v else s.t0 := by
  cases t <;> rfl
@[simp] theorem State.writeSel_t1 (s : State) (t : Sel) (v : Byte) : (s.writeSel t v).t1 = if t = .t1 then v else s.t1 := by
  cases t <;> rfl
@[simp] theorem State.writeSel_queue (s : State) (t : Sel) (v : Byte) : (s.writeSel t v).queue = s.queue := by
  cases t <;> rfl
@[simp] theorem State.writeSel_mem (s : State) (t : Sel) (v : Byte) : (s.writeSel t v).mem = s.mem := by
  cases t <;> rfl

@[simp] theorem State.readSel_writeSel (s : State) (t r : Sel) (v : Byte) :
    (s.writeSel t v).readSel r = if r = t then v else s.readSel r := by
  cases t <;> cases r <;> rfl

/-! ### writeTarget -/

@[simp] theorem State.writeTarget_cfg (s : State) (t : Sel) (v : Byte) : (s.writeTarget t v).cfg = s.cfg := by
  cases t <;> rfl
@[simp] theorem State.writeTarget_a (s : State) (t : Sel) (v : Byte) : (s.writeTarget t v).a = if t = .a then v else s.a := by
  cases t <;> rfl
@[simp] theorem State.writeTarget_x (s : State) (t : Sel) (v : Byte) : (s.writeTarget t v).x = if t = .x then v else s.x := by
  cases t <;> rfl
@[simp] theorem State.writeTarget_y (s : State) (t : Sel) (v : Byte) : (s.writeTarget t v).y = if t = .y then v else s.y := by
  cases t <;> rfl
@[simp] theorem State.writeTarget_sp (s : State) (t : Sel) (v : Byte) : (s.writeTarget t v).sp = s.sp := by
  cases t <;> rfl
@[simp] theorem State.writeTarget_ip (s : State) (t : Sel) (v : Byte) : (s.writeTarget t v).ip = s.ip := by
  cases t <;> rfl
@[simp] theorem State.writeTarget_ipOvf (s : State) (t : Sel) (v : Byte) : (s.writeTarget t v).ipOvf = s.ipOvf := by
  cases t <;> rfl
@[simp] theorem State.writeTarget_flags (s : State) (t : Sel) (v : Byte) :
    (s.writeTarget t v).flags = if isArch t then s.flags.setZN v else s.flags := by
  cases t <;> rfl
@[simp] theorem State.writeTarget_halted (s : State) (t : Sel) (v : Byte) : (s.writeTarget t v).halted = s.halted := by
  cases t <;> rfl
@[simp] theorem State.writeTarget_eah (s : State) (t : Sel) (v : Byte) : (s.writeTarget t v).eah = s.eah := by
  cases t <;> rfl
@[simp] theorem State.writeTarget_eal (s : State) (t : Sel) (v : Byte) : (s.writeTarget t v).eal = s.eal := by
  cases t <;> rfl
@[simp] theorem State.writeTarget_t0 (s : State) (t : Sel) (v : Byte) : (s.writeTarget t v).t0 = if t = .t0 then v else s.t0 := by
  cases t <;> rfl
@[simp] theorem State.writeTarget_t1 (s : State) (t : Sel) (v : Byte) : (s.writeTarget t v).t1 = if t = .t1 then v else s.t1 := by
  cases t <;> rfl
@[simp] theorem State.writeTarget_queue (s : State) (t : Sel) (v : Byte) : (s.writeTarget t v).queue = s.queue := by
  cases t <;> rfl
@[simp] theorem State.writeTarget_mem (s : State) (t : Sel) (v : Byte) : (s.writeTarget t v).mem = s.mem := by
  cases t <;> rfl

@[simp] theorem State.readSel_writeTarget (s : State) (t r : Sel) (v : Byte) :
    (s.writeTarget t v).readSel r = if r = t then v else s.readSel r := by
  cases t <;> cases r <;> rfl

/-! ### Flags -/

@[simp] theorem Flags.setZN_z (f : Flags) (v : Byte) : (f.setZN v).z = (v == 0x00) := rfl
@[simp] theorem Flags.setZN_n (f : Flags) (v : Byte) : (f.setZN v).n = v.getLsbD 7 := rfl
@[simp] theorem Flags.setZN_c (f : Flags) (v : Byte) : (f.setZN v).c = f.c := rfl
@[simp] theorem Flags.setZN_i (f : Flags) (v : Byte) : (f.setZN v).i = f.i := rfl
@[simp] theorem Flags.setZN_d (f : Flags) (v : Byte) : (f.setZN v).d = f.d := rfl
@[simp] theorem Flags.setZN_b0 (f : Flags) (v : Byte) : (f.setZN v).b0 = f.b0 := rfl
@[simp] theorem Flags.setZN_b1 (f : Flags) (v : Byte) : (f.setZN v).b1 = f.b1 := rfl
@[simp] theorem Flags.setZN_v (f : Flags) (v : Byte) : (f.setZN v).v = f.v := rfl

/-- Only the byte matters for the flags (R122). -/
@[simp] theorem Flags.setZN_setZN (f : Flags) (u v : Byte) : (f.setZN u).setZN v = f.setZN v := rfl

end Sys2Proof.Machine
end

