-- ==== Sys2Proof/Laws/Ops.lean ====
section
/-! SUPPORT. Laws/Ops.lean: what the shared operations can answer: `FetchIP()`, the micro-ops, the handlers, the tick. -/

namespace Sys2Proof.Machine

/-! ### Words of bytes -/

theorem wordOf_toNat (hi lo : Byte) : (wordOf hi lo).toNat = hi.toNat * 256 + lo.toNat := by
  unfold wordOf
  rw [BitVec.toNat_append, Nat.shiftLeft_eq, Nat.mul_comm, ← Nat.two_pow_add_eq_or_of_lt lo.isLt, Nat.mul_comm]

@[simp] theorem lowByte_wordOf (hi lo : Byte) : lowByte (wordOf hi lo) = lo := by
  apply BitVec.eq_of_toNat_eq
  rw [lowByte, BitVec.extractLsb'_toNat, wordOf_toNat, Nat.shiftRight_zero]
  have := lo.isLt
  omega

@[simp] theorem highByte_wordOf (hi lo : Byte) : highByte (wordOf hi lo) = hi := by
  apply BitVec.eq_of_toNat_eq
  rw [highByte, BitVec.extractLsb'_toNat, wordOf_toNat, Nat.shiftRight_eq_div_pow]
  have := lo.isLt
  have := hi.isLt
  omega

/-! ### FetchIP -/

/-- Inside memory the fetch delivers the byte at `IP` (R101). -/
theorem fetchIp_of_inside {s : State} (h : s.ipOvf = false) (k : Byte → State → Result) :
    fetchIp s k = k (s.mem.read s.ip) s.advanceIp := by
  simp [fetchIp, h]

/-- With `IP_OVF = 1` it raises (R191). -/
theorem fetchIp_of_overflow {s : State} (h : s.ipOvf = true) (k : Byte → State → Result) :
    fetchIp s k = raiseIpDereference := by
  simp [fetchIp, h]

/-- A fetch that answers a next state was inside memory. -/
theorem fetchIp_next {s t : State} {k : Byte → State → Result} (h : fetchIp s k = .next t) :
    s.ipOvf = false ∧ k (s.mem.read s.ip) s.advanceIp = .next t := by
  unfold fetchIp at h
  split at h
  · cases h
  next h0 => exact ⟨by simpa using h0, h⟩

/-! ### Micro-ops -/

/-- What `execute` answers, micro-op by micro-op (R128 to R136). -/
theorem execute_next {u : MicroOp} {s t : State} (h : execute u s = .next t) :
    (∃ r, u = .fetchByte r ∧ s.ipOvf = false ∧ t = s.advanceIp.writeTarget r (s.mem.read s.ip)) ∨
    (u = .fetchAddrLo ∧ s.ipOvf = false ∧ t = s.advanceIp.setEal (s.mem.read s.ip)) ∨
    (u = .fetchAddrHi ∧ s.ipOvf = false ∧ t = s.advanceIp.setEah (s.mem.read s.ip)) ∨
    (∃ src, u = .setAddrLo src ∧ t = s.setEal (s.srcVal src)) ∨
    (∃ src, u = .setAddrHi src ∧ t = s.setEah (s.srcVal src)) ∨
    (∃ src, u = .addAddrLo src ∧ t = s.setEal (s.eal + s.srcVal src)) ∨
    (∃ src, u = .addAddrHi src ∧ t = s.setEah (s.eah + s.srcVal src)) ∨
    (∃ r, u = .readMem r ∧ t = s.writeTarget r (s.mem.read s.eap)) ∨
    (∃ r, u = .writeMem r ∧ t = s.store s.eap (s.readSel r)) := by
  cases u with
  | fetchByte r =>
    simp only [execute, microFetchByte] at h
    obtain ⟨h0, h1⟩ := fetchIp_next h
    cases h1
    exact .inl ⟨r, rfl, h0, rfl⟩
  | fetchAddrLo =>
    simp only [execute, microFetchAddrLo] at h
    obtain ⟨h0, h1⟩ := fetchIp_next h
    cases h1
    exact .inr (.inl ⟨rfl, h0, rfl⟩)
  | fetchAddrHi =>
    simp only [execute, microFetchAddrHi] at h
    obtain ⟨h0, h1⟩ := fetchIp_next h
    cases h1
    exact .inr (.inr (.inl ⟨rfl, h0, rfl⟩))
  | setAddrLo src => cases h; exact .inr (.inr (.inr (.inl ⟨src, rfl, rfl⟩)))
  | setAddrHi src => cases h; exact .inr (.inr (.inr (.inr (.inl ⟨src, rfl, rfl⟩))))
  | addAddrLo src => cases h; exact .inr (.inr (.inr (.inr (.inr (.inl ⟨src, rfl, rfl⟩)))))
  | addAddrHi src => cases h; exact .inr (.inr (.inr (.inr (.inr (.inr (.inl ⟨src, rfl, rfl⟩))))))
  | readMem r => cases h; exact .inr (.inr (.inr (.inr (.inr (.inr (.inr (.inl ⟨r, rfl, rfl⟩)))))))
  | writeMem r => cases h; exact .inr (.inr (.inr (.inr (.inr (.inr (.inr (.inr ⟨r, rfl, rfl⟩)))))))

/-- When `execute` answers a next state: unless it fetches past the top of memory (R127). -/
theorem execute_answers (u : MicroOp) (s : State) :
    (∃ t, execute u s = .next t) ∨ (microFetches u = true ∧ s.ipOvf = true ∧ execute u s = raiseIpDereference) := by
  cases u <;>
    simp [execute, microFetchByte, microFetchAddrLo, microFetchAddrHi, microSetAddrLo, microSetAddrHi, microAddAddrLo,
      microAddAddrHi, microReadMem, microWriteMem, microFetches, fetchIp] <;>
    cases s.ipOvf <;> simp

/-- No micro-op touches the parameters, `SP`, `HALTED` or the queue (R12, R19, R104). -/
theorem execute_frame {u : MicroOp} {s t : State} (h : execute u s = .next t) :
    t.cfg = s.cfg ∧ t.sp = s.sp ∧ t.halted = s.halted ∧ t.queue = s.queue := by
  rcases execute_next h with ⟨_, _, _, rfl⟩ | ⟨_, _, rfl⟩ | ⟨_, _, rfl⟩ | ⟨_, _, rfl⟩ | ⟨_, _, rfl⟩ | ⟨_, _, rfl⟩ |
    ⟨_, _, rfl⟩ | ⟨_, _, rfl⟩ | ⟨_, _, rfl⟩ <;> simp

/-! ### Handlers -/

/-- What a table entry does in the fetch-decode tick (the table of R103). -/
def entryAction (e : Entry) (s : State) : State :=
  match e with
  | .unmapped     => s
  | .halt         => s.setHalted true
  | .load t m     => s.enqueue (loadSeq m t)
  | .store r m    => s.enqueue (storeSeq m r)
  | .transfer f t => transfer f t s

/-- Every handler answers a next state: what its table entry says (R103). -/
theorem exec_eq (i : Instr) (s : State) : exec i s = .next (entryAction i.entry s) := by
  cases i <;> rfl

/-- No handler touches the parameters, `SP`, `IP`, `IP_OVF`, the scratch or memory. -/
theorem entryAction_frame (e : Entry) (s : State) :
    (entryAction e s).cfg = s.cfg ∧ (entryAction e s).sp = s.sp ∧ (entryAction e s).ip = s.ip ∧
    (entryAction e s).ipOvf = s.ipOvf ∧ (entryAction e s).eah = s.eah ∧ (entryAction e s).eal = s.eal ∧
    (entryAction e s).t0 = s.t0 ∧ (entryAction e s).t1 = s.t1 ∧ (entryAction e s).mem = s.mem := by
  cases e with
  | transfer f t => cases f <;> cases t <;> simp [entryAction, transfer, regSel]
  | _ => simp [entryAction]

/-- At an instruction boundary the queue after the handler is the sequence of its entry (R105). -/
theorem entryAction_queue (e : Entry) {s : State} (h : s.queue = []) : (entryAction e s).queue = entrySeq e := by
  cases e <;> simp [entryAction, entrySeq, transfer, h]

/-! ### The tick -/

/-- A tick that answers a next state executed the front micro-op, or fetched and decoded inside memory (R104, R105). -/
theorem step_next {s t : State} (h : step s = .next t) :
    (∃ u q t', s.queue = u :: q ∧ execute u s = .next t' ∧ t = t'.dequeue) ∨
    (s.queue = [] ∧ s.ipOvf = false ∧
      t = entryAction (decodeOpcode s.cfg (s.mem.read s.ip)).entry s.advanceIp) := by
  unfold step tick at h
  split at h
  next u q hq =>
    unfold executeFront at h
    split at h
    next t' ht => cases h; exact .inl ⟨u, q, t', hq, ht, rfl⟩
    · cases h
    · cases h
  next hq =>
    obtain ⟨h0, h1⟩ := fetchIp_next h
    rw [exec_eq] at h1
    cases h1
    exact .inr ⟨hq, h0, rfl⟩

/-- A tick with micro-ops queued. -/
theorem step_cons {s t : State} {u : MicroOp} {q : List MicroOp} (hq : s.queue = u :: q) (h : execute u s = .next t) :
    step s = .next t.dequeue := by
  simp [step, tick, hq, executeFront, h]

/-- A fetch-decode tick inside memory. -/
theorem step_nil {s : State} (hq : s.queue = []) (h : s.ipOvf = false) :
    step s = .next (entryAction (decodeOpcode s.cfg (s.mem.read s.ip)).entry s.advanceIp) := by
  simp [step, tick, hq, fetchDecode, fetchIp_of_inside h, exec_eq]

/-- A tick answers a next state, or it fetches past the top of memory and raises (R191, R194); none is refused (R201). -/
theorem step_answers (s : State) :
    (∃ t, step s = .next t) ∨ (tickFetches s = true ∧ s.ipOvf = true ∧ step s = raiseIpDereference) := by
  cases hq : s.queue with
  | nil =>
    cases h : s.ipOvf with
    | false => exact .inl ⟨_, step_nil hq h⟩
    | true => exact .inr ⟨by simp [tickFetches, hq], rfl, by simp [step, tick, hq, fetchDecode, fetchIp_of_overflow h]⟩
  | cons u q =>
    rcases execute_answers u s with ⟨t, h⟩ | ⟨h0, h1, h⟩
    · exact .inl ⟨_, step_cons hq h⟩
    · exact .inr ⟨by simp [tickFetches, hq, h0], h1, by simp [step, tick, hq, executeFront, h, raiseIpDereference]⟩

/-! ### Several ticks -/

@[simp] theorem finish_zero (s : State) : finish 0 s = .next s := rfl

theorem finish_succ {s t : State} (n : Nat) (h : step s = .next t) : finish (n + 1) s = finish n t := by
  simp [finish, h]

/-- One more micro-op executed, when the rest of the queue is to be executed after it. -/
theorem finish_cons {s t : State} {u : MicroOp} {q : List MicroOp} (n : Nat) (hq : s.queue = u :: q)
    (h : execute u s = .next t) : finish (n + 1) s = finish n t.dequeue :=
  finish_succ n (step_cons hq h)

end Sys2Proof.Machine
end

