-- ==== Sys2Proof/Laws/HostOps.lean ====
section
/-! SUPPORT. Laws/HostOps.lean: what the host's operations can answer: `load_program`, the launch preconditions, several ticks. -/

namespace Sys2Proof.Machine

/-! ### load_program -/

/-- An accepted load: between instructions, short enough, and memory alone is another (R216). -/
theorem loadProgram_next {bytes : List Byte} {s t : State} (h : loadProgram bytes s = .next t) :
    s.queue = [] ∧ bytes.length ≤ maxProgramLen ∧ t = { s with mem := s.mem.loadImage bytes } := by
  unfold loadProgram at h
  split at h
  next hq =>
    split at h
    · cases h
    · cases h
      exact ⟨by simpa using hq, by omega, rfl⟩
  · cases h

/-- When a load between instructions is accepted. -/
theorem loadProgram_of_fits {bytes : List Byte} {s : State} (hq : s.queue = []) (h : bytes.length ≤ maxProgramLen) :
    loadProgram bytes s = .next { s with mem := s.mem.loadImage bytes } := by
  simp [loadProgram, hq, Nat.not_lt.mpr h]

theorem Memory.wf_loadImage {m : Memory} (bytes : List Byte) (h : m.wf = true) : (m.loadImage bytes).wf = true := by
  unfold Memory.loadImage
  exact Memory.wf_write resetVectorHi _ (Memory.wf_write resetVectorLo _ (Memory.wf_writeBytes origin.toNat bytes h))

/-- A cell after a load: the vector, the program, or what was there (R216, R48). -/
theorem Memory.read_loadImage (m : Memory) {bytes : List Byte} (h : bytes.length ≤ maxProgramLen) (a : Word) :
    (m.loadImage bytes).read a =
      if a = 0xFFFD then 0x80
      else if a = 0xFFFC then 0x00
      else if 0x8000 ≤ a.toNat ∧ a.toNat < 0x8000 + bytes.length then bytes.getD (a.toNat - 0x8000) 0
      else m.read a := by
  unfold Memory.loadImage
  rw [Memory.read_write, Memory.read_write]
  have e : (m.writeBytes origin.toNat bytes).read a = _ :=
    Memory.get_writeBytes m 0x8000 bytes a.toNat (by unfold memSize; unfold maxProgramLen at h; omega)
  rw [e]
  rfl

/-! ### Launch preconditions -/

/-- Preconditions that set no memory cell leave memory. -/
theorem hostWrites_mem (pre : List HostWrite) (s : State) (h : ∀ w ∈ pre, ∀ k v, w ≠ .cell k v) :
    (hostWrites pre s).mem = s.mem := by
  induction pre generalizing s with
  | nil => rfl
  | cons w ws ih =>
    rw [hostWrites, ih _ fun w hw => h w (by simp [hw])]
    cases w with
    | cell k v => exact absurd rfl (h _ (by simp) k v)
    | _ => simp [hostWrite]

/-- A cell that no precondition sets reads as before. -/
theorem hostWrites_read (pre : List HostWrite) (s : State) (k : Word) (h : ∀ w ∈ pre, ∀ v, w ≠ .cell k v) :
    (hostWrites pre s).mem.read k = s.mem.read k := by
  induction pre generalizing s with
  | nil => rfl
  | cons w ws ih =>
    rw [hostWrites, ih _ fun w hw => h w (by simp [hw])]
    cases w with
    | cell j v =>
      have hj : k ≠ j := fun hk => h (.cell j v) (by simp) v (by rw [hk])
      simp [hostWrite, hj]
    | _ => simp [hostWrite]

/-- What the host may not set (R223(d)), it leaves. -/
theorem hostWrite_frame (w : HostWrite) (s : State) :
    (hostWrite w s).cfg = s.cfg ∧ (hostWrite w s).ip = s.ip ∧ (hostWrite w s).ipOvf = s.ipOvf ∧
    (hostWrite w s).halted = s.halted ∧ (hostWrite w s).eah = s.eah ∧ (hostWrite w s).eal = s.eal ∧
    (hostWrite w s).t0 = s.t0 ∧ (hostWrite w s).t1 = s.t1 ∧ (hostWrite w s).queue = s.queue := by
  cases w with
  | reg r v => cases r <;> simp [hostWrite, regSel]
  | _ => simp [hostWrite]

/-- The parameters are none of the host's preconditions. -/
theorem hostWrites_cfg (pre : List HostWrite) (s : State) : (hostWrites pre s).cfg = s.cfg := by
  induction pre generalizing s with
  | nil => rfl
  | cons w ws ih => rw [hostWrites, ih, (hostWrite_frame w s).1]

/-! ### run -/

theorem run_halted {s : State} (n : Nat) (h : s.halted = true) : run n s = .halted s := by
  cases n <;> simp [run, h]

/-- One turn of the loop of `run()` (R220): what the tick answers decides. -/
theorem run_succ {s : State} (n : Nat) (h : s.halted = false) :
    run (n + 1) s = match step s with
      | .next t    => run n t
      | .fault f   => .faulted f s
      | .refused r => .refused r s := by
  cases hs : step s <;> simp [run, h, hs]

/-! ### Several ticks -/

/-- Ticks already taken can be cut off the front of a longer row of ticks. -/
theorem finish_suffix {k n : Nat} {s u v : State} (h : finish k s = .next u) (h' : finish n s = .next v) (hk : k ≤ n) :
    finish (n - k) u = .next v := by
  induction k generalizing n s with
  | zero => cases h; exact h'
  | succ k ih =>
    obtain ⟨m, rfl⟩ : ∃ m, n = m + 1 := ⟨n - 1, by omega⟩
    simp only [finish] at h h'
    split at h
    next s' hs =>
      rw [hs] at h'
      simpa using ih h h' (by omega)
    · cases h
    · cases h

end Sys2Proof.Machine
end

