-- ==== Sys2Proof/Laws/PerInstr.lean ====
section
/-! SUPPORT. Laws/PerInstr.lean: facts about each instruction as syntax. -/

namespace Sys2Proof.Laws.OpcodeRoundTrip

/-- Where the instruction exists, the decoder reads it back from its own opcode byte. -/
def Statement (i : Instr) : Prop := ∀ cfg : Config, i.wf cfg = true → decodeOpcode cfg (encodeOpcode i) = i

/-- Only the four settings of the parameters matter. -/
theorem of_settings {i : Instr}
    (h : ∀ e t, i.wf ⟨e, t⟩ = true → decodeOpcode ⟨e, t⟩ (encodeOpcode i) = i) : Statement i :=
  fun ⟨e, t⟩ => h e t

theorem ldaImm : Statement .ldaImm := of_settings (by decide)

theorem ldaZp : Statement .ldaZp := of_settings (by decide)

theorem ldaZpx : Statement .ldaZpx := of_settings (by decide)

theorem ldaAbs : Statement .ldaAbs := of_settings (by decide)

theorem ldaAbx : Statement .ldaAbx := of_settings (by decide)

theorem ldaAby : Statement .ldaAby := of_settings (by decide)

theorem ldaIzx : Statement .ldaIzx := of_settings (by decide)

theorem ldaIzy : Statement .ldaIzy := of_settings (by decide)

theorem ldxImm : Statement .ldxImm := of_settings (by decide)

theorem ldxZp : Statement .ldxZp := of_settings (by decide)

theorem ldxZpy : Statement .ldxZpy := of_settings (by decide)

theorem ldxAbs : Statement .ldxAbs := of_settings (by decide)

theorem ldxAby : Statement .ldxAby := of_settings (by decide)

theorem ldyImm : Statement .ldyImm := of_settings (by decide)

theorem ldyZp : Statement .ldyZp := of_settings (by decide)

theorem ldyZpx : Statement .ldyZpx := of_settings (by decide)

theorem ldyAbs : Statement .ldyAbs := of_settings (by decide)

theorem ldyAbx : Statement .ldyAbx := of_settings (by decide)

theorem hlt : Statement .hlt := of_settings (by decide)

/-- Every row of the decoder's table is for a byte that `mappedOpcodes` names. -/
theorem rows_mapped : ∀ e t, ∀ r ∈ tableRows ⟨e, t⟩, r.1 ∈ mappedOpcodes ⟨e, t⟩ := by decide

theorem unmapped (op : Byte) : Statement (.unmapped op) := by
  intro ⟨e, t⟩ h
  have hop : op ∉ mappedOpcodes ⟨e, t⟩ := by simpa [Instr.wf] using h
  have hnone : (tableRows ⟨e, t⟩).lookup op = none := by
    rw [List.lookup_eq_none_iff]
    intro r hr
    have : op ≠ r.1 := fun he => hop (he ▸ rows_mapped e t r hr)
    simpa using this
  simp [decodeOpcode, encodeOpcode, hnone]

theorem staZp : Statement .staZp := of_settings (by decide)

theorem staZpx : Statement .staZpx := of_settings (by decide)

theorem staAbs : Statement .staAbs := of_settings (by decide)

theorem staAbx : Statement .staAbx := of_settings (by decide)

theorem staAby : Statement .staAby := of_settings (by decide)

theorem staIzx : Statement .staIzx := of_settings (by decide)

theorem staIzy : Statement .staIzy := of_settings (by decide)

theorem stxZp : Statement .stxZp := of_settings (by decide)

theorem stxZpy : Statement .stxZpy := of_settings (by decide)

theorem stxAbs : Statement .stxAbs := of_settings (by decide)

theorem styZp : Statement .styZp := of_settings (by decide)

theorem styZpx : Statement .styZpx := of_settings (by decide)

theorem styAbs : Statement .styAbs := of_settings (by decide)

theorem tax : Statement .tax := of_settings (by decide)

theorem tay : Statement .tay := of_settings (by decide)

theorem txa : Statement .txa := of_settings (by decide)

theorem tya : Statement .tya := of_settings (by decide)

end Sys2Proof.Laws.OpcodeRoundTrip
end

