-- ==== Sys2Proof/Laws/Safety.lean ====
section
/-! SUPPORT. Laws/Safety.lean: lemmas about the terms of Safety.lean: `IP` as a 17-bit number, the bytes that fit, completion, the
invariant's parts. -/

namespace Sys2Proof.Machine

/-! ### The instruction pointer -/

theorem State.advanceIp_eq (s : State) : s.advanceIp = { s with ip := s.ip + 1, ipOvf := s.ip == 0xFFFF } := by
  have h := State.advanceIp_ip s
  have h' := State.advanceIp_ipOvf s
  cases s
  simp_all [State.advanceIp]

/-- The 17-bit number goes up by one in a fetch inside memory (R15). -/
theorem State.ip17_advanceIp {s : State} (h : s.ipOvf = false) : s.advanceIp.ip17 = s.ip17 + 1 := by
  unfold State.ip17 memSize
  rw [State.advanceIp_ip, State.advanceIp_ipOvf, h]
  by_cases hx : s.ip = 0xFFFF
  · rw [hx]
    rfl
  · have h2 : s.ip.toNat ≠ 65535 := fun hh => hx (BitVec.eq_of_toNat_eq hh)
    have hlt := s.ip.isLt
    have hx' : ¬s.ip = 65535#16 := hx
    simp [hx', BitVec.toNat_add]
    omega

theorem State.BytesFit.ipOvf {s : State} {n : Nat} (h : s.BytesFit (n + 1)) : s.ipOvf = false := by
  unfold State.BytesFit State.ip17 memSize at h
  cases h0 : s.ipOvf
  · rfl
  · rw [h0, if_pos rfl] at h
    omega

theorem State.BytesFit.advance {s : State} {n : Nat} (h : s.BytesFit (n + 1)) : s.advanceIp.BytesFit n := by
  have h0 := h.ipOvf
  unfold State.BytesFit at h ⊢
  rw [State.ip17_advanceIp h0]
  omega

theorem State.ip17_skip {s : State} {n : Nat} (h : n = 0 ∨ s.BytesFit n) : (s.skip n).ip17 = s.ip17 + n := by
  induction n generalizing s with
  | zero => rfl
  | succ n ih =>
    have hb := h.resolve_left (by omega)
    rw [State.skip, ih (.inr hb.advance), State.ip17_advanceIp hb.ipOvf]
    omega

/-- After a fetch `IP_OVF` says what the invariant says of it. -/
theorem State.ovfOk_advanceIp (s : State) : s.advanceIp.OvfOk := by
  intro h
  rw [State.advanceIp_ipOvf] at h
  have hx : s.ip = 0xFFFF := by simpa using h
  rw [State.advanceIp_ip, hx]
  rfl

/-! ### skip -/

@[simp] theorem State.skip_cfg (s : State) (n : Nat) : (s.skip n).cfg = s.cfg := by
  induction n generalizing s <;> simp_all [State.skip]
@[simp] theorem State.skip_a (s : State) (n : Nat) : (s.skip n).a = s.a := by
  induction n generalizing s <;> simp_all [State.skip]
@[simp] theorem State.skip_x (s : State) (n : Nat) : (s.skip n).x = s.x := by
  induction n generalizing s <;> simp_all [State.skip]
@[simp] theorem State.skip_y (s : State) (n : Nat) : (s.skip n).y = s.y := by
  induction n generalizing s <;> simp_all [State.skip]
@[simp] theorem State.skip_sp (s : State) (n : Nat) : (s.skip n).sp = s.sp := by
  induction n generalizing s <;> simp_all [State.skip]
@[simp] theorem State.skip_flags (s : State) (n : Nat) : (s.skip n).flags = s.flags := by
  induction n generalizing s <;> simp_all [State.skip]
@[simp] theorem State.skip_halted (s : State) (n : Nat) : (s.skip n).halted = s.halted := by
  induction n generalizing s <;> simp_all [State.skip]
@[simp] theorem State.skip_eah (s : State) (n : Nat) : (s.skip n).eah = s.eah := by
  induction n generalizing s <;> simp_all [State.skip]
@[simp] theorem State.skip_eal (s : State) (n : Nat) : (s.skip n).eal = s.eal := by
  induction n generalizing s <;> simp_all [State.skip]
@[simp] theorem State.skip_t0 (s : State) (n : Nat) : (s.skip n).t0 = s.t0 := by
  induction n generalizing s <;> simp_all [State.skip]
@[simp] theorem State.skip_t1 (s : State) (n : Nat) : (s.skip n).t1 = s.t1 := by
  induction n generalizing s <;> simp_all [State.skip]
@[simp] theorem State.skip_queue (s : State) (n : Nat) : (s.skip n).queue = s.queue := by
  induction n generalizing s <;> simp_all [State.skip]
@[simp] theorem State.skip_mem (s : State) (n : Nat) : (s.skip n).mem = s.mem := by
  induction n generalizing s <;> simp_all [State.skip]

/-! ### Completion and the queue -/

/-- An instruction completes in one state only. -/
theorem Completes.unique {i : Instr} {s u v : State} (h : Completes i s u) (h' : Completes i s v) : u = v := by
  obtain ⟨t, h1, h2⟩ := h
  obtain ⟨t', h1', h2'⟩ := h'
  rw [h1] at h1'
  cases h1'
  rw [h2] at h2'
  cases h2'
  rfl

/-- A byte that no row of this machine's table has is `unmapped` (R66, R67). -/
theorem decodeOpcode_of_not_mapped {cfg : Config} {op : Byte} (h : op ∉ mappedOpcodes cfg) :
    decodeOpcode cfg op = .unmapped op := by
  simpa [encodeOpcode] using Laws.OpcodeRoundTrip.unmapped op cfg (by simpa [Instr.wf] using h)

theorem State.queueOk_of_boundary {s : State} (h : s.Boundary) : s.QueueOk :=
  ⟨.hlt, rfl, by rw [show s.queue = [] from h]; exact List.nil_suffix⟩

end Sys2Proof.Machine
end

