-- ==== Sys2Proof/Tests/Slice0.lean ====
section
/-! SUPPORT. Tests/Slice0.lean: the model's own tests. Expected results are those of spec/95_test_vectors.md (the vector is named
at each test) or of the encoding tables of spec/30_encoding.md; none is the model's own answer. The second part holds, for
each statement of Certificates/Slice0/Obligations.lean that has hypotheses, a state and operands that meet them. -/

namespace Sys2Proof.Tests.Slice0

open Sys2Proof Sys2Proof.Machine

/-! ### Helpers -/

/-- The machine with both parameters true. -/
def ext : Config := ⟨true, true⟩

/-- A memory from a list of cells. -/
def cells (cs : List (Nat × Byte)) : Memory := cs.foldl (fun m c => m.put c.1 c.2) []

/-- A reset machine with parameters `cfg`, `IP = ip`, the bytes of an instruction there, and other cells. -/
def at_ (cfg : Config) (ip : Word) (bytes : List Byte) (cs : List (Nat × Byte) := []) : State :=
  { State.reset with cfg := cfg, ip := ip, mem := (cells cs).writeBytes ip.toNat bytes }

/-- `n` ticks answer a next state of which `p` holds. -/
def ends (n : Nat) (s : State) (p : State → Bool) : Bool :=
  match finish n s with
  | .next t => p t
  | _       => false

/-- A tick raises the fault of a fetch past the top of memory. -/
def raises (s : State) : Bool :=
  match step s with
  | .fault (.outOfRangeAccess .ipDereference a) => a == 0x10000
  | _ => false

/-- The flags with `Z` and `N` as given and the others 0. -/
def zn (z n : Bool) : Flags := ⟨false, z, false, false, false, false, false, n⟩

/-! ### WellFormed: an ill-formed term for each check -/

theorem test_wf_unmapped_byte_is_mapped : (Instr.unmapped 0xA9).wf .base = false := by decide
theorem test_wf_unmapped_store_byte_with_parameter : (Instr.unmapped 0x85).wf ⟨true, false⟩ = false := by decide
theorem test_wf_unmapped_transfer_byte_with_parameter : (Instr.unmapped 0xAA).wf ⟨false, true⟩ = false := by decide
theorem test_wf_store_without_parameter : Instr.staZp.wf ⟨false, true⟩ = false := by decide
theorem test_wf_transfer_without_parameter : Instr.tax.wf ⟨true, false⟩ = false := by decide
theorem test_wf_operand_missing : (Code.mk .ldaAbs [0x34]).wf .base = false := by decide
theorem test_wf_operand_too_many : (Code.mk .hlt [0x00]).wf .base = false := by decide
theorem test_wf_accepts : (Code.mk .ldaAbs [0x34, 0x12]).wf .base = true ∧ (Code.mk .staZp [0x10]).wf ext = true ∧
    (Code.mk (.unmapped 0x85) []).wf .base = true := by decide

/-! ### Decoding: every constructor's opcode bits, from the tables of R66 and R67 -/

/-- The bits of spec/opcode_table.json's encodings: opcode byte in bits 7:0, the operand bytes above it. -/
theorem test_decode_lda :
    decodeTableWord 16 0b01000010_10101001 = some .ldaImm ∧ decodeTableWord 16 0b00010000_10100101 = some .ldaZp ∧
    decodeTableWord 16 0b00010000_10110101 = some .ldaZpx ∧ decodeTableWord 24 0b00010010_00110100_10101101 = some .ldaAbs ∧
    decodeTableWord 24 0b00010010_00110100_10111101 = some .ldaAbx ∧
    decodeTableWord 24 0b00010010_00110100_10111001 = some .ldaAby ∧
    decodeTableWord 16 0b00010000_10100001 = some .ldaIzx ∧ decodeTableWord 16 0b00010000_10110001 = some .ldaIzy := by
  decide

theorem test_decode_ldx_ldy :
    decodeTableWord 16 0b01000010_10100010 = some .ldxImm ∧ decodeTableWord 16 0b00010000_10100110 = some .ldxZp ∧
    decodeTableWord 16 0b00010000_10110110 = some .ldxZpy ∧ decodeTableWord 24 0b00010010_00110100_10101110 = some .ldxAbs ∧
    decodeTableWord 24 0b00010010_00110100_10111110 = some .ldxAby ∧
    decodeTableWord 16 0b01000010_10100000 = some .ldyImm ∧ decodeTableWord 16 0b00010000_10100100 = some .ldyZp ∧
    decodeTableWord 16 0b00010000_10110100 = some .ldyZpx ∧ decodeTableWord 24 0b00010010_00110100_10101100 = some .ldyAbs ∧
    decodeTableWord 24 0b00010010_00110100_10111100 = some .ldyAbx := by
  decide

theorem test_decode_hlt_unmapped :
    decodeTableWord 8 0b11111111 = some .hlt ∧ decodeTableWord 8 0b00000010 = some (.unmapped 0x02) ∧
    decodeTableWord 8 0b10000101 = some (.unmapped 0x85) ∧ decodeTableWord 8 0b10101010 = some (.unmapped 0xAA) := by
  decide

theorem test_decode_sta :
    decodeOpcode ext 0b10000101 = .staZp ∧ decodeOpcode ext 0b10010101 = .staZpx ∧ decodeOpcode ext 0b10001101 = .staAbs ∧
    decodeOpcode ext 0b10011101 = .staAbx ∧ decodeOpcode ext 0b10011001 = .staAby ∧ decodeOpcode ext 0b10000001 = .staIzx ∧
    decodeOpcode ext 0b10010001 = .staIzy := by
  decide

theorem test_decode_stx_sty_transfers :
    decodeOpcode ext 0b10000110 = .stxZp ∧ decodeOpcode ext 0b10010110 = .stxZpy ∧ decodeOpcode ext 0b10001110 = .stxAbs ∧
    decodeOpcode ext 0b10000100 = .styZp ∧ decodeOpcode ext 0b10010100 = .styZpx ∧ decodeOpcode ext 0b10001100 = .styAbs ∧
    decodeOpcode ext 0b10101010 = .tax ∧ decodeOpcode ext 0b10101000 = .tay ∧ decodeOpcode ext 0b10001010 = .txa ∧
    decodeOpcode ext 0b10011000 = .tya := by
  decide

/-- The low operand byte comes first (R61, R85). -/
theorem test_decode_operands :
    decode .base [0xAD, 0x34, 0x12, 0xFF] = .ok (⟨.ldaAbs, [0x34, 0x12]⟩, [0xFF]) ∧
    decode .base [0xA9] = .error (.operandBytesMissing .ldaImm) ∧ decode .base [] = .error .noOpcodeByte :=
  ⟨rfl, rfl, rfl⟩

/-! ### Loads: vectors L1 to L18 (each run of one instruction, without the HLT after it) -/

/-- L1. -/
theorem test_ldaImm : ends 2 { at_ .base 0x8000 [0xA9, 0x80] [] with flags := zn (!false) (!true) }
    (fun t => t.a == 0x80 && t.ip == 0x8002 && t.flags == zn false true && t.queue == []) = true := by
  decide

/-- L2. -/
theorem test_ldaZp : ends 4 { at_ .base 0x8000 [0xA5, 0x10] [(0x0010, 0x7F)] with flags := zn (!false) (!false) }
    (fun t => t.a == 0x7F && t.ip == 0x8002 && t.flags == zn false false && t.queue == []) = true := by
  decide

/-- L3. -/
theorem test_ldaZpx : ends 5 { at_ .base 0x8000 [0xB5, 0xFF] [(0x0001, 0x5A), (0x0101, 0xBB)] with flags := zn (!false) (!false), x := 0x02 }
    (fun t => t.a == 0x5A && t.ip == 0x8002 && t.flags == zn false false && t.queue == []) = true := by
  decide

/-- L4. -/
theorem test_ldaAbs : ends 4 { at_ .base 0x8000 [0xAD, 0x34, 0x12] [] with flags := zn (!true) (!false), a := 0x11 }
    (fun t => t.a == 0x00 && t.ip == 0x8003 && t.flags == zn true false && t.queue == []) = true := by
  decide

/-- L5. -/
theorem test_ldaAbx : ends 5 { at_ .base 0x8000 [0xBD, 0xFF, 0x12] [(0x1201, 0x81), (0x1301, 0x11)] with flags := zn (!false) (!true), x := 0x02 }
    (fun t => t.a == 0x81 && t.ip == 0x8003 && t.flags == zn false true && t.queue == []) = true := by
  decide

/-- L6. -/
theorem test_ldaAby : ends 5 { at_ .base 0x8000 [0xB9, 0x80, 0x40] [(0x4000, 0x01), (0x4100, 0x99)] with flags := zn (!false) (!false), y := 0x80 }
    (fun t => t.a == 0x01 && t.ip == 0x8003 && t.flags == zn false false && t.queue == []) = true := by
  decide

/-- L7. -/
theorem test_ldaIzx : ends 10 { at_ .base 0x8000 [0xA1, 0xFE] [(0x00FF, 0x34), (0x0000, 0x12), (0x0100, 0x77), (0x1234, 0xC3), (0x7734, 0x01)] with flags := zn (!false) (!true), x := 0x01 }
    (fun t => t.a == 0xC3 && t.ip == 0x8002 && t.flags == zn false true && t.queue == []) = true := by
  decide

/-- L8. -/
theorem test_ldaIzy_no_carry : ends 10 { at_ .base 0x8000 [0xB1, 0x40] [(0x0040, 0xF0), (0x0041, 0x20), (0x2110, 0x55)] with flags := zn (!true) (!false), y := 0x20, a := 0x11 }
    (fun t => t.a == 0x00 && t.ip == 0x8002 && t.flags == zn true false && t.queue == []) = true := by
  decide

/-- L8b. -/
theorem test_ldaIzy_pointer_wrap : ends 10 { at_ .base 0x8000 [0xB1, 0xFF] [(0x00FF, 0x10), (0x0000, 0x30), (0x0100, 0x66), (0x3011, 0x9C)] with flags := zn (!false) (!true), y := 0x01 }
    (fun t => t.a == 0x9C && t.ip == 0x8002 && t.flags == zn false true && t.queue == []) = true := by
  decide

/-- L9. -/
theorem test_ldxImm : ends 2 { at_ .base 0x8000 [0xA2, 0x00] [] with flags := zn (!true) (!false), x := 0x11 }
    (fun t => t.x == 0x00 && t.ip == 0x8002 && t.flags == zn true false && t.queue == []) = true := by
  decide

/-- L10. -/
theorem test_ldxZp : ends 4 { at_ .base 0x8000 [0xA6, 0x80] [(0x0080, 0xFF)] with flags := zn (!false) (!true) }
    (fun t => t.x == 0xFF && t.ip == 0x8002 && t.flags == zn false true && t.queue == []) = true := by
  decide

/-- L11. -/
theorem test_ldxZpy : ends 5 { at_ .base 0x8000 [0xB6, 0xF0] [(0x0010, 0x44), (0x0110, 0x99)] with flags := zn (!false) (!false), y := 0x20 }
    (fun t => t.x == 0x44 && t.ip == 0x8002 && t.flags == zn false false && t.queue == []) = true := by
  decide

/-- L12: the opcode byte itself is read. -/
theorem test_ldxAbs : ends 4 { at_ .base 0x8000 [0xAE, 0x00, 0x80] [] with flags := zn (!false) (!true) }
    (fun t => t.x == 0xAE && t.ip == 0x8003 && t.flags == zn false true && t.queue == []) = true := by
  decide

/-- L13. -/
theorem test_ldxAby : ends 5 { at_ .base 0x8000 [0xBE, 0x01, 0x20] [(0x2000, 0x80), (0x2100, 0x08)] with flags := zn (!false) (!true), y := 0xFF }
    (fun t => t.x == 0x80 && t.ip == 0x8003 && t.flags == zn false true && t.queue == []) = true := by
  decide

/-- L14. -/
theorem test_ldyImm : ends 2 { at_ .base 0x8000 [0xA0, 0x7F] [] with flags := zn (!false) (!false) }
    (fun t => t.y == 0x7F && t.ip == 0x8002 && t.flags == zn false false && t.queue == []) = true := by
  decide

/-- L15. -/
theorem test_ldyZp : ends 4 { at_ .base 0x8000 [0xA4, 0x00] [] with flags := zn (!true) (!false), y := 0x11 }
    (fun t => t.y == 0x00 && t.ip == 0x8002 && t.flags == zn true false && t.queue == []) = true := by
  decide

/-- L16. -/
theorem test_ldyZpx : ends 5 { at_ .base 0x8000 [0xB4, 0x80] [(0x0000, 0xE0), (0x0100, 0x0E)] with flags := zn (!false) (!true), x := 0x80 }
    (fun t => t.y == 0xE0 && t.ip == 0x8002 && t.flags == zn false true && t.queue == []) = true := by
  decide

/-- L17: the reset vector's high byte. -/
theorem test_ldyAbs : ends 4 { at_ .base 0x8000 [0xAC, 0xFD, 0xFF] [(0xFFFD, 0x80)] with flags := zn (!false) (!true) }
    (fun t => t.y == 0x80 && t.ip == 0x8003 && t.flags == zn false true && t.queue == []) = true := by
  decide

/-- L18. -/
theorem test_ldyAbx : ends 5 { at_ .base 0x8000 [0xBC, 0x10, 0x30] [(0x3015, 0x01)] with flags := zn (!false) (!false), x := 0x05 }
    (fun t => t.y == 0x01 && t.ip == 0x8003 && t.flags == zn false false && t.queue == []) = true := by
  decide

/-! ### Stores and transfers: vectors E1 to E17 -/

/-- E1. -/
theorem test_staZp : ends 4 { at_ ext 0x8000 [0x85, 0x10] [] with flags := zn false true, a := 0x37 }
    (fun t => t.mem.read 0x0010 == 0x37 && t.ip == 0x8002 && t.flags == zn false true && t.queue == []) = true := by
  decide

/-- E2. -/
theorem test_staZpx : ends 5 { at_ ext 0x8000 [0x95, 0xFF] [] with flags := zn false true, a := 0x37, x := 0x02 }
    (fun t => t.mem.read 0x0001 == 0x37 && t.mem.read 0x0101 == 0x00 && t.ip == 0x8002 && t.flags == zn false true && t.queue == []) = true := by
  decide

/-- E3: storing zero sets no flag. -/
theorem test_staAbs : ends 4 { at_ ext 0x8000 [0x8D, 0x00, 0x02] [(0x0200, 0x11)] with flags := zn false true, a := 0x00 }
    (fun t => t.mem.read 0x0200 == 0x00 && t.ip == 0x8003 && t.flags == zn false true && t.queue == []) = true := by
  decide

/-- E4. -/
theorem test_staAbx : ends 5 { at_ ext 0x8000 [0x9D, 0xFF, 0x12] [] with flags := zn false true, a := 0x5A, x := 0x02 }
    (fun t => t.mem.read 0x1201 == 0x5A && t.mem.read 0x1301 == 0x00 && t.ip == 0x8003 && t.flags == zn false true && t.queue == []) = true := by
  decide

/-- E5. -/
theorem test_staAby : ends 5 { at_ ext 0x8000 [0x99, 0x80, 0x40] [] with flags := zn false true, a := 0x5A, y := 0x80 }
    (fun t => t.mem.read 0x4000 == 0x5A && t.mem.read 0x4100 == 0x00 && t.ip == 0x8003 && t.flags == zn false true && t.queue == []) = true := by
  decide

/-- E6. -/
theorem test_staIzx : ends 10 { at_ ext 0x8000 [0x81, 0x10] [(0x0014, 0x20), (0x0015, 0x03)] with flags := zn false true, a := 0xC3, x := 0x04 }
    (fun t => t.mem.read 0x0320 == 0xC3 && t.ip == 0x8002 && t.flags == zn false true && t.queue == []) = true := by
  decide

/-- E7. -/
theorem test_staIzy : ends 10 { at_ ext 0x8000 [0x91, 0x40] [(0x0040, 0xF0), (0x0041, 0x20)] with flags := zn false true, a := 0xC3, y := 0x20 }
    (fun t => t.mem.read 0x2010 == 0xC3 && t.mem.read 0x2110 == 0x00 && t.ip == 0x8002 && t.flags == zn false true && t.queue == []) = true := by
  decide

/-- E8. -/
theorem test_stxZp : ends 4 { at_ ext 0x8000 [0x86, 0x10] [] with flags := zn false true, x := 0x44 }
    (fun t => t.mem.read 0x0010 == 0x44 && t.ip == 0x8002 && t.flags == zn false true && t.queue == []) = true := by
  decide

/-- E9. -/
theorem test_stxZpy : ends 5 { at_ ext 0x8000 [0x96, 0xF0] [] with flags := zn false true, x := 0x44, y := 0x20 }
    (fun t => t.mem.read 0x0010 == 0x44 && t.mem.read 0x0110 == 0x00 && t.ip == 0x8002 && t.flags == zn false true && t.queue == []) = true := by
  decide

/-- E10. -/
theorem test_stxAbs : ends 4 { at_ ext 0x8000 [0x8E, 0x34, 0x12] [] with flags := zn false true, x := 0x44 }
    (fun t => t.mem.read 0x1234 == 0x44 && t.ip == 0x8003 && t.flags == zn false true && t.queue == []) = true := by
  decide

/-- E11. -/
theorem test_styZp : ends 4 { at_ ext 0x8000 [0x84, 0x10] [] with flags := zn false true, y := 0x55 }
    (fun t => t.mem.read 0x0010 == 0x55 && t.ip == 0x8002 && t.flags == zn false true && t.queue == []) = true := by
  decide

/-- E12. -/
theorem test_styZpx : ends 5 { at_ ext 0x8000 [0x94, 0x80] [] with flags := zn false true, y := 0x55, x := 0x80 }
    (fun t => t.mem.read 0x0000 == 0x55 && t.mem.read 0x0100 == 0x00 && t.ip == 0x8002 && t.flags == zn false true && t.queue == []) = true := by
  decide

/-- E13. -/
theorem test_styAbs : ends 4 { at_ ext 0x8000 [0x8C, 0x34, 0x12] [] with flags := zn false true, y := 0x55 }
    (fun t => t.mem.read 0x1234 == 0x55 && t.ip == 0x8003 && t.flags == zn false true && t.queue == []) = true := by
  decide

/-- E14. -/
theorem test_tax : ends 1 { at_ ext 0x8000 [0xAA] with flags := zn false false, a := 0x80, x := 0x01 }
    (fun t => t.x == 0x80 && t.a == 0x80 && t.ip == 0x8001 && t.flags == zn false true) = true := by
  decide

/-- E15. -/
theorem test_tay : ends 1 { at_ ext 0x8000 [0xA8] with flags := zn false true, a := 0x00, y := 0x01 }
    (fun t => t.y == 0x00 && t.a == 0x00 && t.ip == 0x8001 && t.flags == zn true false) = true := by
  decide

/-- E16. -/
theorem test_txa : ends 1 { at_ ext 0x8000 [0x8A] with flags := zn true false, x := 0x04, a := 0x00 }
    (fun t => t.a == 0x04 && t.x == 0x04 && t.ip == 0x8001 && t.flags == zn false false) = true := by
  decide

/-- E17. -/
theorem test_tya : ends 1 { at_ ext 0x8000 [0x98] with flags := zn false false, y := 0xFF, a := 0x00 }
    (fun t => t.a == 0xFF && t.y == 0xFF && t.ip == 0x8001 && t.flags == zn false true) = true := by
  decide

/-- E1off and E14off: with the parameters false the byte is a one-byte no-op. -/
theorem test_extension_off :
    step { at_ .base 0x8000 [0x85, 0x10] with a := 0x37 } = .next { at_ .base 0x8000 [0x85, 0x10] with a := 0x37, ip := 0x8001 } ∧
    step { at_ .base 0x8000 [0xAA] with a := 0x80 } = .next { at_ .base 0x8000 [0xAA] with a := 0x80, ip := 0x8001 } :=
  ⟨rfl, rfl⟩

/-! ### HLT, unmapped opcodes, the top of memory -/

/-- H1. -/
theorem test_hlt : step (at_ .base 0x8000 [0xFF]) = .next { at_ .base 0x8000 [0xFF] with ip := 0x8001, halted := true } := rfl

/-- H2: nothing but `IP` moves, and `Z = N = 1` stays. -/
theorem test_unmapped :
    step { at_ .base 0x8000 [0x02] with flags := zn true true, a := 0x12 } =
      .next { at_ .base 0x8000 [0x02] with flags := zn true true, a := 0x12, ip := 0x8001 } := rfl

/-- T1: a HLT in the last cell halts cleanly. -/
theorem test_hlt_in_last_cell :
    step (at_ .base 0xFFFF [0xFF]) = .next { at_ .base 0xFFFF [0xFF] with ip := 0x0000, ipOvf := true, halted := true } := rfl

/-- T2: the load ends in the last cell, and the next opcode fetch raises. -/
theorem test_load_then_fault : ends 2 (at_ .base 0xFFFE [0xA9, 0x55])
    (fun t => t.a == 0x55 && t.ip == 0x0000 && t.ipOvf && raises t) = true := by
  decide

/-- T3: the operand fetch raises, and the micro-op stays queued. -/
theorem test_operand_fault : ends 1 { at_ .base 0xFFFF [0xA9] with a := 0x11 }
    (fun t => t.a == 0x11 && t.ipOvf && t.queue == [.fetchByte .a] && raises t) = true := by
  decide

/-- T4 and T5: the second operand byte is missing; `reset()` is the way on. -/
theorem test_second_operand_fault : ends 2 (at_ .base 0xFFFE [0xAD, 0x34] [(0xFFFD, 0x80)])
    (fun t => t.eal == 0x34 && t.queue == [.fetchAddrHi, .readMem .a] && raises t &&
      hostReset t == { t with ip := 0x8000, ipOvf := false, queue := [] }) = true := by
  decide

/-- T6: `IP` is not treated as address 0x0000. -/
theorem test_overflowed_fetch_raises : raises { at_ .base 0x0000 [0xFF] with ipOvf := true } = true := by decide

/-- Part 1.2, S4 after tick 7: the pointer's bytes are in `T0`, `T1` and no flag has moved. -/
theorem test_pointer_phase : ends 7 { at_ .base 0x8000 [0xA1, 0x10] [(0x0014, 0x20), (0x0020, 0x37)] with
      x := 0x04, flags := zn true true }
    (fun t => t.eap == 0x0015 && t.t0 == 0x20 && t.t1 == 0x00 && t.flags == zn true true && t.queue.length == 3) = true := by
  decide

/-! ### Micro-ops (section 2.4), flags (2.1), resolver (2.3) -/

/-- The start state of section 2.4. -/
def micro : State :=
  { at_ .base 0x9000 [0x34] [(0x12FF, 0x80)] with
    eah := 0x12, eal := 0xFF, a := 0x11, x := 0x02, t0 := 0x20, t1 := 0x03, flags := zn true false }

/-- `EAP` after a micro-op. -/
def eapAfter (u : MicroOp) : Option Word :=
  match execute u micro with
  | .next t => some t.eap
  | _       => none

theorem test_micro_fetch_and_address :
    eapAfter .fetchAddrLo = some 0x1234 ∧ eapAfter .fetchAddrHi = some 0x34FF ∧ eapAfter (.setAddrLo (.reg .t0)) = some 0x1220 ∧
    eapAfter (.setAddrHi (.const 0x00)) = some 0x00FF ∧ eapAfter (.setAddrHi (.reg .t1)) = some 0x03FF ∧
    eapAfter (.addAddrLo (.reg .x)) = some 0x1201 ∧ eapAfter (.addAddrLo (.const 0x01)) = some 0x1200 ∧
    eapAfter (.addAddrHi (.const 0x01)) = some 0x13FF := by
  decide

theorem test_micro_byte_moves :
    execute (.fetchByte .a) micro = .next { micro with a := 0x34, flags := zn false false, ip := 0x9001 } ∧
    execute (.fetchByte .t0) micro = .next { micro with t0 := 0x34, ip := 0x9001 } ∧
    execute (.readMem .a) micro = .next { micro with a := 0x80, flags := zn false true } ∧
    execute (.readMem .t1) micro = .next { micro with t1 := 0x80 } ∧
    execute (.writeMem .a) micro = .next { micro with mem := cells [(0x12FF, 0x11), (0x9000, 0x34)] } :=
  ⟨rfl, rfl, rfl, rfl, rfl⟩

theorem test_setZN_rows :
    (zn false true).setZN 0x00 = zn true false ∧ (zn true true).setZN 0x01 = zn false false ∧
    (zn true true).setZN 0x7F = zn false false ∧ (zn true false).setZN 0x80 = zn false true ∧
    (zn true false).setZN 0xFF = zn false true := by
  decide

theorem test_resolver :
    effectiveAddress .zpx 0xFF 0 0x02 0 [] = some 0x0001 ∧ effectiveAddress .zpy 0x01 0 0 0xFF [] = some 0x0000 ∧
    effectiveAddress .abx 0xFF 0xFF 0x01 0 [] = some 0xFF00 ∧ effectiveAddress .aby 0x80 0x40 0 0x80 [] = some 0x4000 ∧
    effectiveAddress .izx 0xFF 0 0xFF 0 (cells [(0xFE, 0xCD), (0xFF, 0xAB)]) = some 0xABCD ∧
    effectiveAddress .izy 0x40 0 0 0x20 (cells [(0x40, 0xF0), (0x41, 0x20)]) = some 0x2010 := by
  decide

/-- R18: the display order of the flags. -/
theorem test_status_byte : (Flags.statusByte ⟨true, false, false, true, false, false, false, true⟩) = 0b10001001 := by decide

/-! ### Host operations (section 2.7) -/

/-- O6: the tail of a longer program stays. -/
theorem test_load_program_twice :
    ((Memory.loadImage [] [1, 2, 3, 4]).loadImage [9]).wf = true ∧
    (List.range 5).map (fun i => ((Memory.loadImage [] [1, 2, 3, 4]).loadImage [9]).get (0x8000 + i)) = [9, 2, 3, 4, 0] := by
  decide

/-- S1 to S3 of the source, by the boot sequence and `run()`. -/
def runs (program : List Byte) (pre : List HostWrite) (p : State → Bool) : Bool :=
  match boot .base .zero program pre with
  | .next s => match run 12 s with
    | .halted t => p t
    | _         => false
  | _ => false

theorem test_scenario_1 : runs [0xA9, 0x42, 0xFF] [] (fun t =>
    t.a == 0x42 && t.flags == zn false false && t.halted && t.ip == 0x8003) = true := by
  decide

theorem test_scenario_3 : runs [0xB5, 0x00, 0xFF] [.reg .x 1, .cell 0x0001 0xFF] (fun t =>
    t.a == 0xFF && t.flags == zn false true && t.halted && t.ip == 0x8003) = true := by
  decide

/-- O10: `run()` on a halted core takes no tick. -/
theorem test_run_halted : run 5 { State.reset with halted := true } = .halted { State.reset with halted := true } := rfl

/-- The host's question on one word: `withFetchWord` and `decodeTableWord` on `A9 42`. -/
theorem test_withFetchWord :
    step (State.reset.withFetchWord 16 0x42A9) =
      .next { State.reset.withFetchWord 16 0x42A9 with ip := 0x0001, queue := [.fetchByte .a] } := rfl

/-! ### Witnesses: states and operands that meet the hypotheses of each statement, at boundary values -/

/-- What `Ready` asks, from its two parts. -/
theorem ready_of {s : State} {i : Instr} (hq : s.queue = []) (h : s.ip17 + i.mode.operandBytes ≤ memSize) : s.Ready i :=
  ⟨hq, .inr h⟩

theorem witness_DecodeEncodeRoundTrip :
    (Code.mk .ldaAbs [0xFF, 0x00]).wf .base = true ∧ (Code.mk .staIzy [0x40]).wf ext = true ∧
    (Code.mk (.unmapped 0x98) []).wf ⟨true, false⟩ = true := by
  decide

theorem witness_DecodedBytesReencode :
    decode .base [0xAD, 0x34, 0x12, 0xFF] = .ok (⟨.ldaAbs, [0x34, 0x12]⟩, [0xFF]) := rfl

/-- A byte outside every row, and one that only the machine with the parameter has a row for. -/
theorem witness_DispatchTableHoldsItsRows :
    (0x02 : Byte) ∉ baseRows.map Prod.fst ∧ (0x02 : Byte) ∉ storeRows.map Prod.fst ∧
    (0x02 : Byte) ∉ transferRows.map Prod.fst ∧ (0x85 : Byte) ∉ baseRows.map Prod.fst ∧ Config.base.extStore = false ∧
    Config.base.extTransfer = false := by
  decide

/-- A state at a boundary in the last cell, and one past it. -/
theorem witness_StepRunsTheDecodedInstruction :
    (at_ .base 0xFFFF [0xA9]).Boundary ∧ (at_ .base 0xFFFF [0xA9]).ipOvf = false ∧
    decode .base ((at_ .base 0xFFFF [0xA9]).mem.read 0xFFFF :: [0x42]) = .ok (⟨.ldaImm, [0x42]⟩, []) ∧
    ({ State.reset with ipOvf := true } : State).Boundary ∧ ({ State.reset with ipOvf := true } : State).ipOvf = true :=
  ⟨rfl, rfl, rfl, rfl, rfl⟩

/-- A state with one fetching micro-op queued, inside memory or past it. -/
def fetching (ovf : Bool) : State := { State.reset with ipOvf := ovf, queue := [.fetchByte .a] }

theorem witness_StepExecutesTheFrontMicroOp :
    (fetching false).queue = [.fetchByte .a] ∧ (∃ t, execute (.fetchByte .a) (fetching false) = .next t) ∧
    (∃ f, execute (.fetchByte .a) (fetching true) = .fault f) ∧ State.reset.queue = [] ∧
    (∃ t, step (fetching false) = .next t) ∧ ∃ f, step (fetching true) = .fault f :=
  ⟨rfl, ⟨_, rfl⟩, ⟨_, rfl⟩, rfl, ⟨_, rfl⟩, ⟨_, rfl⟩⟩

theorem witness_StepFaultsExactlyPastTheTop :
    (∃ f, step (fetching true) = .fault f) ∧ ¬∃ f, step (fetching false) = .fault f := by
  refine ⟨⟨_, rfl⟩, ?_⟩
  rintro ⟨f, h⟩
  cases h

theorem witness_ResetGetsAFaultedCoreGoing :
    (∃ f, step { State.reset with ipOvf := true } = .fault f) ∧
    ∃ t, loadProgram [0xFF] { State.reset with ipOvf := true } = .next t :=
  ⟨⟨_, rfl⟩, ⟨_, rfl⟩⟩

/-- For LdaOpcodesLoadA, LdxOpcodesLoadX, LdyOpcodesLoadY, StaOpcodesStoreA and StxAndStyOpcodesStoreTheirRegister: each
instruction with one operand byte, that byte in the last cell. -/
theorem witness_OpcodeRule_one_operand_byte :
    (at_ ext 0xFFFF [0x10]).Boundary ∧
    ∀ i ∈ [Instr.ldaImm, .ldaZp, .ldaZpx, .ldaIzx, .ldaIzy, .ldxImm, .ldxZp, .ldxZpy, .ldyImm, .ldyZp, .ldyZpx,
        .staZp, .staZpx, .staIzx, .staIzy, .stxZp, .stxZpy, .styZp, .styZpx],
      i.wf ext = true ∧ (at_ ext 0xFFFF [0x10]).Ready i := by
  refine ⟨rfl, fun i hi => ?_⟩
  simp only [List.mem_cons, List.not_mem_nil, or_false] at hi
  rcases hi with rfl | rfl | rfl | rfl | rfl | rfl | rfl | rfl | rfl | rfl | rfl | rfl | rfl | rfl | rfl | rfl | rfl | rfl |
    rfl <;> exact ⟨rfl, ready_of rfl (by decide)⟩

/-- The same for each instruction with two operand bytes, in the last two cells. -/
theorem witness_OpcodeRule_two_operand_bytes :
    (at_ ext 0xFFFE [0x34, 0x12]).Boundary ∧
    ∀ i ∈ [Instr.ldaAbs, .ldaAbx, .ldaAby, .ldxAbs, .ldxAby, .ldyAbs, .ldyAbx, .staAbs, .staAbx, .staAby, .stxAbs, .styAbs],
      i.wf ext = true ∧ (at_ ext 0xFFFE [0x34, 0x12]).Ready i := by
  refine ⟨rfl, fun i hi => ?_⟩
  simp only [List.mem_cons, List.not_mem_nil, or_false] at hi
  rcases hi with rfl | rfl | rfl | rfl | rfl | rfl | rfl | rfl | rfl | rfl | rfl | rfl <;>
    exact ⟨rfl, ready_of rfl (by decide)⟩

theorem witness_TransfersCopyOneRegister :
    ∀ op ∈ ([0xAA, 0xA8, 0x8A, 0x98] : List Byte), ∀ b : Bool,
      (at_ ⟨false, b⟩ 0xFFFF [op]).Boundary ∧ (at_ ⟨false, b⟩ 0xFFFF [op]).ipOvf = false ∧
      (at_ ⟨false, b⟩ 0xFFFF [op]).mem.read 0xFFFF = op ∧ (at_ ⟨false, b⟩ 0xFFFF [op]).cfg.extTransfer = b := by
  intro op hop b
  simp only [List.mem_cons, List.not_mem_nil, or_false] at hop
  rcases hop with rfl | rfl | rfl | rfl <;> exact ⟨rfl, rfl, rfl, rfl⟩

theorem witness_HltSetsHaltedOnly :
    (at_ .base 0xFFFF [0xFF]).Boundary ∧ (at_ .base 0xFFFF [0xFF]).ipOvf = false ∧
    (at_ .base 0xFFFF [0xFF]).mem.read 0xFFFF = 0xFF ∧
    ({ State.reset with ipOvf := true } : State).Boundary ∧ ({ State.reset with ipOvf := true } : State).ipOvf = true :=
  ⟨rfl, rfl, rfl, rfl, rfl⟩

theorem witness_UnmappedOpcodesChangeOnlyIp :
    (at_ .base 0xFFFF [0x02]).Boundary ∧ (at_ .base 0xFFFF [0x02]).ipOvf = false ∧
    (at_ .base 0xFFFF [0x02]).mem.read 0xFFFF ∉ mappedOpcodes .base ∧
    (at_ .base 0xFFFF [0x85]).mem.read 0xFFFF ∉ mappedOpcodes .base := by
  refine ⟨rfl, rfl, ?_, ?_⟩ <;> decide

theorem witness_LoadTicksGiveTheNetResult :
    (at_ .base 0xFFFE [0xA9, 0x55]).Boundary ∧ (at_ .base 0xFFFE [0xA9, 0x55]).ipOvf = false ∧
    (decodeOpcode .base ((at_ .base 0xFFFE [0xA9, 0x55]).mem.read 0xFFFE)).entry = .load .a .imm ∧
    (0xFFFE : Word).toNat + Mode.imm.operandBytes ≤ 0xFFFF ∧
    (at_ .base 0xFFFD [0xBE, 0x01, 0x20]).Boundary ∧ (at_ .base 0xFFFD [0xBE, 0x01, 0x20]).ipOvf = false ∧
    (decodeOpcode .base ((at_ .base 0xFFFD [0xBE, 0x01, 0x20]).mem.read 0xFFFD)).entry = .load .x .aby ∧
    (0xFFFD : Word).toNat + Mode.aby.operandBytes ≤ 0xFFFF := by
  refine ⟨rfl, rfl, rfl, ?_, rfl, rfl, rfl, ?_⟩ <;> decide

/-- With nothing to fetch, an instruction is ready even with `IP_OVF = 1`. -/
theorem witness_TicksAgreeWithTheImmediateDesign :
    (at_ ext 0xFFFF [0x40]).Ready .staIzy ∧ (at_ ext 0xFFFE [0x34, 0x12]).Ready .ldaAbx ∧
    ({ State.reset with ipOvf := true } : State).Ready .hlt ∧ ({ State.reset with ipOvf := true } : State).Ready .tax ∧
    ({ State.reset with ipOvf := true } : State).Ready (.unmapped 0x02) :=
  ⟨ready_of rfl (by decide), ready_of rfl (by decide), ⟨rfl, .inl rfl⟩, ⟨rfl, .inl rfl⟩, ⟨rfl, .inl rfl⟩⟩

theorem witness_StoresWriteOneByte :
    Instr.staAbs.entry = .store .a .abs ∧ (at_ ext 0xFFFE [0x00, 0x02]).Boundary ∧ (at_ ext 0xFFFE [0x00, 0x02]).BytesFit 2 ∧
    (at_ ext 0xFFFF [0x00]).Boundary ∧ ¬(at_ ext 0xFFFF [0x00]).BytesFit 2 := by
  refine ⟨rfl, rfl, ?_, rfl, ?_⟩ <;> unfold State.BytesFit <;> decide

theorem witness_LoadsLeaveEverythingElse :
    Instr.ldaImm.entry = .load .a .imm ∧ (at_ .base 0xFFFF [0x42]).Boundary ∧
    ∃ u, Completes .ldaImm (at_ .base 0xFFFF [0x42]) u :=
  ⟨rfl, rfl, _, _, rfl, rfl⟩

theorem witness_StoresLeaveEverythingElse :
    Instr.styZp.entry = .store .y .zp ∧ (at_ ext 0xFFFF [0x10]).Boundary ∧
    (∃ u, Completes .styZp (at_ ext 0xFFFF [0x10]) u) ∧
    effectiveAddress .zp 0x10 0x00 0x00 0x00 (at_ ext 0xFFFF [0x10]).mem = some 0x0010 ∧ (0x0011 : Word) ≠ 0x0010 :=
  ⟨rfl, rfl, ⟨_, _, rfl, rfl⟩, rfl, by decide⟩

theorem witness_FetchDecodeTickLeavesMemoryAndScratch :
    (∃ t, exec .ldaZp State.reset = .next t) ∧ (∃ t, exec .hlt State.reset = .next t) ∧
    (∃ t, exec .tay State.reset = .next t) ∧ Instr.tay.entry = .transfer .a .y ∧ (Instr.unmapped 0x02) ≠ .hlt ∧
    (∀ f r, Instr.ldaZp.entry ≠ .transfer f r) ∧ (∀ r m, Instr.tay.entry ≠ .load r m ∧ Instr.tay.entry ≠ .store r m) := by
  refine ⟨⟨_, rfl⟩, ⟨_, rfl⟩, ⟨_, rfl⟩, rfl, ?_, ?_, ?_⟩ <;> simp [Instr.entry]

/-- The first operand byte missing, and the second. -/
theorem witness_OperandFetchPastTheTopFaults :
    Instr.ldaImm.entry = .load .a .imm ∧ ({ State.reset with ipOvf := true } : State).Boundary ∧
    ¬({ State.reset with ipOvf := true } : State).BytesFit Mode.imm.operandBytes ∧
    Instr.ldaAbs.entry = .load .a .abs ∧ (at_ .base 0xFFFF [0x34]).Boundary ∧
    ¬(at_ .base 0xFFFF [0x34]).BytesFit Mode.abs.operandBytes := by
  refine ⟨rfl, rfl, ?_, rfl, rfl, ?_⟩ <;> unfold State.BytesFit <;> decide

theorem witness_NoStaleFlagSurvivesALoad :
    (at_ .base 0xFFFF [0x00]).Ready .ldaImm ∧
    AgreeButZN (at_ .base 0xFFFF [0x00]) { at_ .base 0xFFFF [0x00] with flags := zn true true } ∧
    (∃ s' u, exec .ldaZp (at_ .base 0xFFFF [0x00]) = .next s' ∧ 2 < s'.queue.length ∧ finish 2 s' = .next u) ∧
    (∃ t, step { State.reset with queue := [.fetchByte .a] } = .next t ∧ t.flags ≠ State.reset.flags) ∧
    (∃ t, step { State.reset with queue := [.readMem .y] } = .next t ∧ t.flags ≠ State.reset.flags) ∧
    ∃ t, step (at_ ext 0x8000 [0x98]) = .next t ∧ t.flags ≠ (at_ ext 0x8000 [0x98]).flags := by
  refine ⟨ready_of rfl (by decide), rfl, ⟨_, _, rfl, ?_, rfl⟩, ⟨_, rfl, ?_⟩, ⟨_, rfl, ?_⟩, ⟨_, rfl, ?_⟩⟩ <;> decide

theorem witness_ScratchNeverReachesTheHost :
    (at_ .base 0xFFFF [0x10]).Ready .ldaIzx ∧
    AgreeButScratch (at_ .base 0xFFFF [0x10]) { at_ .base 0xFFFF [0x10] with eah := 0x12, eal := 0x34, t0 := 1, t1 := 2 } :=
  ⟨ready_of rfl (by decide), rfl⟩

theorem witness_FetchMicroOpsFollowTheirRules : (fetching false).ipOvf = false ∧ (fetching true).ipOvf = true := ⟨rfl, rfl⟩

/-- The source operand's value, of a constant and of a register. -/
theorem witness_AddressMicroOpsFollowTheirRules :
    micro.srcVal (.const 0xFF) = 0xFF ∧ micro.srcVal (.reg .x) = micro.x ∧ micro.x = 0x02 := ⟨rfl, rfl, rfl⟩

theorem witness_MemoryMicroOpsFollowTheirRules :
    (0x12FF : Word).toNat = micro.eah.toNat * 256 + micro.eal.toNat := by decide

theorem witness_LoadSequencesReadTheirCellsInOrder :
    (at_ .base 0xFFFF [0xFF]).Boundary ∧ (at_ .base 0xFFFF [0xFF]).BytesFit 1 ∧
    (at_ .base 0xFFFE [0xFF, 0x12]).Boundary ∧ (at_ .base 0xFFFE [0xFF, 0x12]).BytesFit 2 := by
  refine ⟨rfl, ?_, rfl, ?_⟩ <;> unfold State.BytesFit <;> decide

theorem witness_StoreSequencesReplaceTheLastMicroOp :
    Mode.izy ≠ .imp ∧ Mode.izy ≠ .imm ∧ Instr.staIzy.entry = .store .a .izy := by decide

/-- The values at which a clause of the address statements changes. -/
theorem witness_IndexedAbsoluteDoesNotCarry :
    256 ≤ (0xFF : Byte).toNat + (0x01 : Byte).toNat ∧ (0xFF : Byte).toNat + (0x00 : Byte).toNat < 256 := by decide

theorem witness_SetZNOutcomeTable :
    (0x00 : Byte).toNat = 0 ∧ 1 ≤ (0x01 : Byte).toNat ∧ (0x01 : Byte).toNat ≤ 0x7F ∧ (0x7F : Byte).toNat ≤ 0x7F ∧
    0x80 ≤ (0x80 : Byte).toNat ∧ ¬0x80 ≤ (0x7F : Byte).toNat := by decide

/-- Each outcome: a register written, and none. For RegisterAndFlagsChangeTogether, UnconnectedStateNeverChanges and
IpMovesByOneInFetchingTicksOnly (whose two clauses these are: a tick that fetches, in the last cell, and one that does not). -/
theorem witness_step_kinds :
    (∃ t, step (at_ .base 0xFFFF [0xA9]) = .next t) ∧
    (∃ t, step { State.reset with queue := [.fetchByte .a] } = .next t) ∧
    (∃ t, step { State.reset with queue := [.setAddrHi (.const 0x00)] } = .next t) ∧
    ∃ t, step (at_ ext 0xFFFF [0xAA]) = .next t :=
  ⟨⟨_, rfl⟩, ⟨_, rfl⟩, ⟨_, rfl⟩, ⟨_, rfl⟩⟩

theorem witness_MemoryIsPlainStorage : (0x0000 : Word) ≠ 0xFFFF ∧ (cells [(0xFFFF, 0x37)]).wf = true := by decide

/-- The same cells written in two orders. -/
theorem witness_CanonicalMemoriesAreDeterminedByTheirBytes :
    (cells [(0xFFFF, 0x01), (0x0000, 0x02)]).wf = true ∧ (cells [(0x0000, 0x02), (0xFFFF, 0x01)]).wf = true ∧
    ∀ a : Word, (cells [(0xFFFF, 0x01), (0x0000, 0x02)]).read a = (cells [(0x0000, 0x02), (0xFFFF, 0x01)]).read a :=
  ⟨rfl, rfl, fun _ => rfl⟩

/-- A state in the middle of a store, and one that has run past the top of memory in the middle of a load. -/
theorem witness_EveryStepKeepsTheInvariant :
    State.Inv { at_ ext 0xFFFF [0x10] with queue := [.fetchAddrLo, .setAddrHi (.const 0x00), .writeMem .a] } ∧
    (∃ t, step { at_ ext 0xFFFF [0x10] with queue := [.fetchAddrLo, .setAddrHi (.const 0x00), .writeMem .a] } = .next t) ∧
    State.Inv { State.reset with ipOvf := true, queue := [.readMem .a] } ∧
    ∃ t, step { State.reset with ipOvf := true, queue := [.readMem .a] } = .next t :=
  ⟨⟨rfl, (fun h => by cases h), .staZp, rfl, List.suffix_refl _⟩, ⟨_, rfl⟩,
    ⟨rfl, fun _ => rfl, .ldaAbs, rfl, [.fetchAddrLo, .fetchAddrHi], rfl⟩, ⟨_, rfl⟩⟩

theorem witness_HostOperationsKeepTheInvariant : State.reset.Inv ∧ ∃ t, loadProgram [0xFF] State.reset = .next t :=
  ⟨⟨rfl, (fun h => by cases h), State.queueOk_of_boundary rfl⟩, ⟨_, rfl⟩⟩

theorem witness_BaseMachineNeverWritesMemory :
    State.reset.Inv ∧ State.reset.cfg.extStore = false ∧ ∃ t, step State.reset = .next t :=
  ⟨⟨rfl, (fun h => by cases h), State.queueOk_of_boundary rfl⟩, rfl, ⟨_, rfl⟩⟩

theorem witness_OnlyHltHalts :
    (∃ t, step { at_ .base 0x8000 [0xA9] with halted := true } = .next t) ∧
    ∃ t, step (at_ .base 0x8000 [0xFF]) = .next t ∧ (at_ .base 0x8000 [0xFF]).halted = false ∧ t.halted = true :=
  ⟨⟨_, rfl⟩, ⟨_, rfl, rfl, rfl⟩⟩

theorem witness_ATickTouchesOneMemoryCell :
    (∀ a ∈ tickReads (at_ .base 0x8000 [0xA9]), (cells [(0x8000, 0xA9), (0x0000, 0x12)]).read a =
      (at_ .base 0x8000 [0xA9]).mem.read a) ∧
    (∃ t, step (at_ .base 0x8000 [0xA9]) = .next t) ∧
    (∃ t, step { State.reset with queue := [.writeMem .a] } = .next t) ∧
    (0x0000 : Word) ∈ tickWrites { State.reset with queue := [.writeMem .a] } ∧
    (0x0001 : Word) ∉ tickWrites { State.reset with queue := [.writeMem .a] } := by
  refine ⟨fun a ha => ?_, ⟨_, rfl⟩, ⟨_, rfl⟩, ?_, ?_⟩
  · rw [List.mem_singleton.mp (ha : a ∈ [0x8000])]
    decide
  all_goals decide

/-- The longest program accepted, its last byte's address, an address it does not reach, and the shortest refused. -/
theorem witness_LoadProgramWritesImageAndVector :
    State.reset.Boundary ∧ (List.replicate 0x7FFF (0x11 : Byte)).length ≤ 0x7FFF ∧
    (0xFFFE : Word) ≠ 0xFFFC ∧ (0xFFFE : Word) ≠ 0xFFFD ∧ 0x7FFE < (List.replicate 0x7FFF (0x11 : Byte)).length ∧
    (0xFFFE : Word).toNat = 0x8000 + 0x7FFE ∧
    (¬∃ i, i < (List.replicate 0x7FFF (0x11 : Byte)).length ∧ (0xFFFF : Word).toNat = 0x8000 + i) ∧
    0x7FFF < (List.replicate 0x8000 (0x11 : Byte)).length := by
  simp only [List.length_replicate]
  refine ⟨rfl, ?_, ?_, ?_, ?_, ?_, ?_, ?_⟩
  case refine_6 =>
    rintro ⟨i, h, h'⟩
    have e : (0xFFFF : Word).toNat = 0xFFFF := rfl
    omega
  all_goals decide

theorem witness_LoadedImageSurvivesReset :
    (List.replicate 0x7FFC (0x11 : Byte)).length ≤ 0x7FFC ∧
    (∃ t, loadProgram (List.replicate 0x7FFC 0x11) State.reset = .next t) ∧
    0x7FFB < (List.replicate 0x7FFC (0x11 : Byte)).length := by
  refine ⟨?_, ⟨_, loadProgram_of_fits rfl ?_⟩, ?_⟩ <;> rw [List.length_replicate] <;> decide

/-- The longest program, and preconditions as those of scenario 3, beside the cells that are shut out. -/
theorem witness_BootReachesTheProgram :
    ((0xA9 : Byte) :: List.replicate 0x7FFE 0x11).length ≤ 0x7FFF ∧ ([] : List Byte).length ≤ 0x7FFF ∧
    ∀ w ∈ [HostWrite.reg .x 1, .cell 0x0001 0xFF, .cell 0x8001 0x42, .cell 0xFFFB 0x11, .cell 0xFFFE 0x11, .flag .c true],
      ∀ u, (w ≠ .cell 0xFFFC u ∧ w ≠ .cell 0xFFFD u) ∧ w ≠ .cell 0x8000 u := by
  refine ⟨Nat.le_of_eq (by rw [List.length_cons, List.length_replicate]), Nat.zero_le _, ?_⟩
  intro w hw u
  simp only [List.mem_cons, List.not_mem_nil, or_false] at hw
  rcases hw with rfl | rfl | rfl | rfl | rfl | rfl <;> simp

theorem witness_EveryRunEnds :
    State.reset.queue.length + 10 * (0x10000 - State.reset.ip17) < 655361 ∧ State.reset.Boundary ∧ 65536 * 10 + 1 ≤ 655361 := by
  refine ⟨?_, rfl, ?_⟩ <;> decide

theorem witness_RunOutcomes :
    ({ State.reset with halted := true } : State).halted = true ∧ State.reset.halted = false ∧
    (∃ t, step State.reset = .next t) ∧ (∃ t, run 1 (at_ .base 0x8000 [0xFF]) = .halted t) ∧
    ({ State.reset with ipOvf := true } : State).halted = false ∧
    (∃ f, step { State.reset with ipOvf := true } = .fault f) ∧
    ∃ f t, run 1 { State.reset with ipOvf := true } = .faulted f t :=
  ⟨rfl, rfl, ⟨_, rfl⟩, ⟨_, rfl⟩, rfl, ⟨_, rfl⟩, ⟨_, _, rfl⟩⟩

theorem witness_ResetAbandonsTheInstructionInProgress :
    (at_ ext 0xFFFF [0x10]).Ready .staIzy ∧
    ∃ t u, exec .staIzy (at_ ext 0xFFFF [0x10]) = .next t ∧ 8 < t.queue.length ∧ finish 8 t = .next u :=
  ⟨ready_of rfl (by decide), _, _, rfl, by decide, rfl⟩

theorem witness_InstructionInsideMemoryRunsToTheNextBoundary :
    (at_ ext 0xFFFD [0x8D, 0x34, 0x12]).Boundary ∧ (at_ ext 0xFFFD [0x8D, 0x34, 0x12]).ipOvf = false ∧
    decodeOpcode ext ((at_ ext 0xFFFD [0x8D, 0x34, 0x12]).mem.read 0xFFFD) = .staAbs ∧
    (0xFFFD : Word).toNat + Instr.staAbs.mode.operandBytes ≤ 0xFFFF ∧
    ∃ u, finish (instrTicks .staAbs) (at_ ext 0xFFFD [0x8D, 0x34, 0x12]) = .next u := by
  refine ⟨rfl, rfl, rfl, ?_, _, rfl⟩
  decide

end Sys2Proof.Tests.Slice0
end

section
/-! PROOFS. The queued micro-ops as a fold over the state: what each micro-op does when it does not raise, that the ticks of
a queue do this one micro-op after the other, and that for the sequence of an instruction the result is the instruction's
net effect (R6, R140). -/

namespace Sys2Proof.Machine

/-! ### A state with another queue -/

/-- The state with `q` for its queue, the one element that no micro-op reads or writes (R104). -/
def State.withQueue (s : State) (q : List MicroOp) : State := { s with queue := q }

@[simp] theorem State.withQueue_ip17 (s : State) (q : List MicroOp) : (s.withQueue q).ip17 = s.ip17 := rfl
@[simp] theorem State.enqueue_withQueue (s : State) (p q : List MicroOp) :
    (s.enqueue p).withQueue q = s.withQueue q := rfl

@[simp] theorem State.withQueue_readSel (s : State) (q : List MicroOp) (r : Sel) :
    (s.withQueue q).readSel r = s.readSel r := by
  cases r <;> rfl

@[simp] theorem State.withQueue_srcVal (s : State) (q : List MicroOp) (src : Src) :
    (s.withQueue q).srcVal src = s.srcVal src := by
  cases src with
  | const b => rfl
  | reg r => exact s.withQueue_readSel q r

theorem State.withQueue_writeTarget (s : State) (q : List MicroOp) (t : Sel) (v : Byte) :
    (s.withQueue q).writeTarget t v = (s.writeTarget t v).withQueue q := by
  cases t <;> rfl

/-- Giving a state the queue it has changes nothing. -/
theorem State.withQueue_self {s : State} {q : List MicroOp} (h : s.queue = q) : s.withQueue q = s := by
  subst h
  rfl

/-! ### What one micro-op does -/

/-- What a micro-op does to the state when it does not raise (R128 to R136). -/
def microEffect (u : MicroOp) (s : State) : State :=
  match u with
  | .fetchByte t   => s.advanceIp.writeTarget t (s.mem.read s.ip)
  | .fetchAddrLo   => s.advanceIp.setEal (s.mem.read s.ip)
  | .fetchAddrHi   => s.advanceIp.setEah (s.mem.read s.ip)
  | .setAddrLo src => s.setEal (s.srcVal src)
  | .setAddrHi src => s.setEah (s.srcVal src)
  | .addAddrLo src => s.setEal (s.eal + s.srcVal src)
  | .addAddrHi src => s.setEah (s.eah + s.srcVal src)
  | .readMem t     => s.writeTarget t (s.mem.read s.eap)
  | .writeMem r    => s.store s.eap (s.readSel r)

/-- `execute` answers that state, unless the micro-op fetches with `IP_OVF = 1` (R127). -/
theorem execute_eq_microEffect {u : MicroOp} {s : State} (h : microFetches u = true → s.ipOvf = false) :
    execute u s = .next (microEffect u s) := by
  cases u with
  | fetchByte t => rw [execute, microFetchByte, fetchIp_of_inside (h rfl), microEffect]
  | fetchAddrLo => rw [execute, microFetchAddrLo, fetchIp_of_inside (h rfl), microEffect]
  | fetchAddrHi => rw [execute, microFetchAddrHi, fetchIp_of_inside (h rfl), microEffect]
  | _ => rfl

theorem microEffect_withQueue (u : MicroOp) (s : State) (q : List MicroOp) :
    microEffect u (s.withQueue q) = (microEffect u s).withQueue q := by
  cases u with
  | fetchByte t => exact s.advanceIp.withQueue_writeTarget q t _
  | readMem t => exact s.withQueue_writeTarget q t _
  | _ => simp only [microEffect, State.withQueue_srcVal, State.withQueue_readSel]; rfl

/-- Elements that no micro-op touches (R12, R19, R104). -/
theorem microEffect_frame (u : MicroOp) (s : State) :
    (microEffect u s).cfg = s.cfg ∧ (microEffect u s).sp = s.sp ∧ (microEffect u s).halted = s.halted ∧
    (microEffect u s).queue = s.queue := by
  cases u <;> simp [microEffect]

theorem State.ip17_congr {s t : State} (hip : t.ip = s.ip) (hovf : t.ipOvf = s.ipOvf) : t.ip17 = s.ip17 := by
  rw [State.ip17, State.ip17, hip, hovf]

/-- A micro-op that fetches advances `IP` by one byte (R128 to R130). -/
theorem microEffect_ip17_of_fetches {u : MicroOp} {s : State} (h : microFetches u = true) (hin : s.ipOvf = false) :
    (microEffect u s).ip17 = s.ip17 + 1 := by
  rw [← State.ip17_advanceIp hin]
  cases u with
  | fetchByte t => exact State.ip17_congr (State.writeTarget_ip ..) (State.writeTarget_ipOvf ..)
  | fetchAddrLo => rfl
  | fetchAddrHi => rfl
  | _ => cases h

/-- The other micro-ops leave `IP` (R131 to R136). -/
theorem microEffect_ip17_of_not_fetches {u : MicroOp} {s : State} (h : ¬microFetches u = true) :
    (microEffect u s).ip17 = s.ip17 := by
  cases u with
  | fetchByte t => exact absurd rfl h
  | fetchAddrLo => exact absurd rfl h
  | fetchAddrHi => exact absurd rfl h
  | readMem t => exact State.ip17_congr (State.writeTarget_ip ..) (State.writeTarget_ipOvf ..)
  | _ => rfl

/-! ### What a list of micro-ops does -/

/-- The micro-ops executed in order, when none of them raises. -/
def runOps (ops : List MicroOp) (s : State) : State := ops.foldl (fun s u => microEffect u s) s

@[simp] theorem runOps_nil (s : State) : runOps [] s = s := rfl
@[simp] theorem runOps_cons (u : MicroOp) (ops : List MicroOp) (s : State) :
    runOps (u :: ops) s = runOps ops (microEffect u s) := rfl
@[simp] theorem runOps_append (ops ops' : List MicroOp) (s : State) :
    runOps (ops ++ ops') s = runOps ops' (runOps ops s) := List.foldl_append

theorem runOps_withQueue (ops : List MicroOp) (s : State) (q : List MicroOp) :
    runOps ops (s.withQueue q) = (runOps ops s).withQueue q := by
  induction ops generalizing s with
  | nil => rfl
  | cons u ops ih => rw [runOps_cons, microEffect_withQueue, ih, runOps_cons]

theorem runOps_frame (ops : List MicroOp) (s : State) :
    (runOps ops s).cfg = s.cfg ∧ (runOps ops s).sp = s.sp ∧ (runOps ops s).halted = s.halted ∧
    (runOps ops s).queue = s.queue := by
  induction ops generalizing s with
  | nil => exact ⟨rfl, rfl, rfl, rfl⟩
  | cons u ops ih =>
    obtain ⟨hcfg, hsp, hhalted, hqueue⟩ := microEffect_frame u s
    rw [runOps_cons, ← hcfg, ← hsp, ← hhalted, ← hqueue]
    exact ih _

/-- How many bytes a list of micro-ops fetches (R127). -/
def fetchCount (ops : List MicroOp) : Nat := ops.countP microFetches

/-- The bytes a list of micro-ops fetches are inside memory: none of them raises (R127, R191). -/
def OpsFit (ops : List MicroOp) (s : State) : Prop := fetchCount ops = 0 ∨ s.BytesFit (fetchCount ops)

theorem fetchCount_cons_of_fetches {u : MicroOp} (ops : List MicroOp) (hu : microFetches u = true) :
    fetchCount (u :: ops) = fetchCount ops + 1 :=
  List.countP_cons_of_pos hu

theorem fetchCount_cons_of_not_fetches {u : MicroOp} (ops : List MicroOp) (hu : ¬microFetches u = true) :
    fetchCount (u :: ops) = fetchCount ops :=
  List.countP_cons_of_neg hu

theorem OpsFit.head {u : MicroOp} {ops : List MicroOp} {s : State} (h : OpsFit (u :: ops) s)
    (hu : microFetches u = true) : s.ipOvf = false := by
  rw [OpsFit, fetchCount_cons_of_fetches ops hu] at h
  exact (h.resolve_left (Nat.succ_ne_zero _)).ipOvf

theorem OpsFit.tail {u : MicroOp} {ops : List MicroOp} {s : State} (h : OpsFit (u :: ops) s) :
    OpsFit ops (microEffect u s) := by
  by_cases hu : microFetches u = true
  · have hip := microEffect_ip17_of_fetches hu (h.head hu)
    simp only [OpsFit, State.BytesFit, fetchCount_cons_of_fetches ops hu] at h ⊢
    omega
  · have hip := microEffect_ip17_of_not_fetches (s := s) hu
    simp only [OpsFit, State.BytesFit, fetchCount_cons_of_not_fetches ops hu] at h ⊢
    omega

/-- `IP` ends past the bytes fetched (R14, R101). -/
theorem runOps_ip17 {ops : List MicroOp} {s : State} (h : OpsFit ops s) :
    (runOps ops s).ip17 = s.ip17 + fetchCount ops := by
  induction ops generalizing s with
  | nil => rfl
  | cons u ops ih =>
    rw [runOps_cons, ih h.tail]
    by_cases hu : microFetches u = true
    · rw [microEffect_ip17_of_fetches hu (h.head hu), fetchCount_cons_of_fetches ops hu]
      omega
    · rw [microEffect_ip17_of_not_fetches hu, fetchCount_cons_of_not_fetches ops hu]

/-- The ticks of micro-ops at the front of the queue execute them in order and leave the rest queued (R104). -/
theorem finish_withQueue {ops : List MicroOp} {s : State} (h : OpsFit ops s) (rest : List MicroOp) :
    finish ops.length (s.withQueue (ops ++ rest)) = .next ((runOps ops s).withQueue rest) := by
  induction ops generalizing s with
  | nil => rfl
  | cons u ops ih =>
    have hexec : execute u (s.withQueue (u :: ops ++ rest)) = .next ((microEffect u s).withQueue (u :: ops ++ rest)) := by
      rw [execute_eq_microEffect (s := s.withQueue (u :: ops ++ rest)) h.head, microEffect_withQueue]
    rw [List.length_cons, finish_cons ops.length rfl hexec, runOps_cons]
    exact ih h.tail

/-! ### What the address phase of a mode does -/

theorem wordOf_highByte_lowByte (w : Word) : wordOf (highByte w) (lowByte w) = w := by
  apply BitVec.eq_of_toNat_eq
  rw [wordOf_toNat, highByte, lowByte, BitVec.extractLsb'_toNat, BitVec.extractLsb'_toNat, Nat.shiftRight_eq_div_pow]
  have := w.isLt
  omega

@[simp] theorem State.setEal_setEal (s : State) (v w : Byte) : (s.setEal v).setEal w = s.setEal w := rfl

@[simp] theorem State.writeSel_setEal (s : State) (t : Sel) (v w : Byte) :
    (s.writeSel t v).setEal w = (s.setEal w).writeSel t v := by
  cases t <;> rfl

/-- Zero page: one operand byte, below a high byte of zero (R82). -/
theorem runOps_zeroPageOps (s : State) :
    runOps zeroPageOps s = ((s.skip 1).setEah 0x00).setEal s.operand1 := rfl

/-- Absolute: two operand bytes, the low one first (R85). -/
theorem runOps_absoluteOps (s : State) :
    runOps absoluteOps s = ((s.skip 2).setEah s.operand2).setEal s.operand1 := by
  rw [State.operand2, ← State.advanceIp_ip]
  rfl

/-- The pointer phase reads its two bytes at an address in the zero page and the next one there (R88, R89). -/
theorem runOps_pointerOps (s : State) (ptr : Byte) :
    runOps pointerOps ((s.setEah 0#8).setEal ptr) =
      (((s.setEah (pointerHi s.mem ptr)).setEal (pointerLo s.mem ptr)).writeSel .t0 (pointerLo s.mem ptr)).writeSel .t1
        (pointerHi s.mem ptr) := by
  rfl

/-- The address micro-ops of a mode leave what the resolver leaves (R94, R137, R140). -/
theorem runOps_addressOps {m : Mode} {s : State} {ea : Word} (h : s.ea m = some ea) :
    runOps (addressOps m) s = s.resolve m ea := by
  cases m with
  | imp => cases h
  | imm => cases h
  | _ =>
    cases h
    simp [addressOps, runOps_zeroPageOps, runOps_absoluteOps, runOps_pointerOps, State.resolve, pointerAddress,
      Mode.operandBytes, microEffect, State.srcVal, State.readSel]

/-! ### What the resolver leaves -/

@[simp] theorem State.resolve_mem (s : State) (m : Mode) (ea : Word) : (s.resolve m ea).mem = s.mem := by
  cases m <;> simp [State.resolve, pointerAddress]

@[simp] theorem State.resolve_eap (s : State) (m : Mode) (ea : Word) : (s.resolve m ea).eap = ea := by
  rw [← wordOf_highByte_lowByte ea]
  cases m <;> simp [State.resolve, pointerAddress, State.eap]

@[simp] theorem State.readSel_resolve (s : State) (m : Mode) (ea : Word) (r : Reg) :
    (s.resolve m ea).readSel (regSel r) = s.readSel (regSel r) := by
  cases m <;> cases r <;> simp [State.resolve, pointerAddress, regSel, State.readSel]

/-! ### The sequences are the net effects -/

/-- Where there is an effective address, a load is the address phase and then the read, in micro-ops (R137) and as one
step (R168). -/
theorem load_of_ea {m : Mode} {s : State} {ea : Word} (h : s.ea m = some ea) (t : Reg) :
    loadSeq m t = addressOps m ++ [MicroOp.readMem (regSel t)] ∧
    netLoad m t s = (s.resolve m ea).writeTarget (regSel t) (s.mem.read ea) := by
  cases m with
  | imp => cases h
  | imm => cases h
  | _ => exact ⟨rfl, by simp only [netLoad, h]⟩

/-- The same for a store, whose last micro-op is a write (R138, R188). -/
theorem store_of_ea {m : Mode} {s : State} {ea : Word} (h : s.ea m = some ea) (r : Reg) :
    storeSeq m r = addressOps m ++ [MicroOp.writeMem (regSel r)] ∧
    netStore m r s = (s.resolve m ea).store ea (s.readSel (regSel r)) := by
  cases m with
  | imp => cases h
  | imm => cases h
  | _ => exact ⟨rfl, by simp only [netStore, h]⟩

/-- A load's micro-ops do what the load does as one step (R140, R168). -/
theorem runOps_loadSeq (m : Mode) (t : Reg) (s : State) : runOps (loadSeq m t) s = netLoad m t s := by
  cases hea : s.ea m with
  | some ea =>
    obtain ⟨hseq, hnet⟩ := load_of_ea hea t
    simp [hseq, hnet, runOps_addressOps hea, microEffect]
  | none =>
    cases m with
    | imp => rfl
    | imm => rfl
    | _ => cases hea

/-- A store's micro-ops do what the store does as one step (R140, R188). -/
theorem runOps_storeSeq (m : Mode) (r : Reg) (s : State) : runOps (storeSeq m r) s = netStore m r s := by
  cases hea : s.ea m with
  | some ea =>
    obtain ⟨hseq, hnet⟩ := store_of_ea hea r
    simp [hseq, hnet, runOps_addressOps hea, microEffect]
  | none =>
    cases m with
    | imp => rfl
    | imm => rfl
    | _ => cases hea

/-- The micro-ops enqueued are executed from the state that enqueued them, but for the queue (R103, R104). -/
theorem runOps_enqueue (ops : List MicroOp) (s : State) :
    (runOps ops (s.enqueue ops)).withQueue s.queue = runOps ops s := by
  calc (runOps ops (s.enqueue ops)).withQueue s.queue
      = runOps ops ((s.enqueue ops).withQueue s.queue) := (runOps_withQueue ..).symm
    _ = runOps ops s := by rw [State.enqueue_withQueue, State.withQueue_self rfl]

/-- The handler's action and then the micro-ops it queued are the net effect (R140, R168, R188, R189). -/
theorem runOps_entrySeq (e : Entry) (s : State) :
    (runOps (entrySeq e) (entryAction e s)).withQueue s.queue = netEffect e s := by
  cases e with
  | unmapped => rfl
  | halt => rfl
  | load t m => exact (runOps_enqueue (loadSeq m t) s).trans (runOps_loadSeq m t s)
  | store r m => exact (runOps_enqueue (storeSeq m r) s).trans (runOps_storeSeq m r s)
  | transfer f t => exact State.withQueue_self (State.writeTarget_queue ..)

/-! ### Instructions that are ready -/

/-- Every instruction fetches its operand bytes, each once (R94, R137, R138). -/
theorem fetchCount_entrySeq (i : Instr) : fetchCount (entrySeq i.entry) = i.mode.operandBytes := by
  cases i <;> rfl

theorem entryAction_ip17 (e : Entry) (s : State) : (entryAction e s).ip17 = s.ip17 := by
  obtain ⟨-, -, hip, hovf, -⟩ := entryAction_frame e s
  exact State.ip17_congr hip hovf

theorem entryAction_halted (i : Instr) (s : State) :
    (entryAction i.entry s).halted = true ↔ s.halted = true ∨ i = .hlt := by
  cases i <;> simp [entryAction, Instr.entry, transfer]

/-- The micro-ops that a ready instruction queues do not raise (R140). -/
theorem State.Ready.opsFit {i : Instr} {s : State} (h : s.Ready i) : OpsFit (entrySeq i.entry) (entryAction i.entry s) := by
  rw [OpsFit, State.BytesFit, entryAction_ip17, fetchCount_entrySeq]
  exact h.operands

/-- A ready instruction completes in the state of its net effect (R6, R140). -/
theorem State.Ready.completes {i : Instr} {s : State} (h : s.Ready i) : Completes i s (netEffect i.entry s) := by
  have hqueue := entryAction_queue i.entry h.boundary
  refine ⟨entryAction i.entry s, exec_eq i s, ?_⟩
  calc finish (entryAction i.entry s).queue.length (entryAction i.entry s)
      = finish (entrySeq i.entry).length ((entryAction i.entry s).withQueue (entrySeq i.entry ++ [])) := by
        rw [List.append_nil, State.withQueue_self hqueue, hqueue]
    _ = .next ((runOps (entrySeq i.entry) (entryAction i.entry s)).withQueue []) := finish_withQueue h.opsFit []
    _ = .next (netEffect i.entry s) := by rw [← runOps_entrySeq, h.boundary]

/-- What the net effect of an entry leaves of the elements that no micro-op touches. -/
theorem netEffect_frame (e : Entry) (s : State) :
    (netEffect e s).cfg = s.cfg ∧ (netEffect e s).sp = s.sp ∧ (netEffect e s).halted = (entryAction e s).halted ∧
    (netEffect e s).queue = s.queue := by
  obtain ⟨hcfg, hsp, hhalted, -⟩ := runOps_frame (entrySeq e) (entryAction e s)
  obtain ⟨hcfg', hsp', -⟩ := entryAction_frame e s
  rw [← runOps_entrySeq]
  exact ⟨hcfg.trans hcfg', hsp.trans hsp', hhalted, rfl⟩

/-- The net effect of a ready instruction has `IP` past its operand bytes (R14, R94). -/
theorem State.Ready.ip17_netEffect {i : Instr} {s : State} (h : s.Ready i) :
    (netEffect i.entry s).ip17 = s.ip17 + i.mode.operandBytes := by
  rw [← runOps_entrySeq, State.withQueue_ip17, runOps_ip17 h.opsFit, entryAction_ip17, fetchCount_entrySeq]

/-- Settles O19: the ticks execute the queued micro-ops in order, and their composition is the net effect. -/
theorem ticksAgreeWithTheImmediateDesign : Obligations.TicksAgreeWithTheImmediateDesign := by
  intro i s h
  obtain ⟨hcfg, hsp, hhalted, hqueue⟩ := netEffect_frame i.entry s
  refine ⟨h.completes, hqueue.trans h.boundary, h.ip17_netEffect, hcfg, hsp, ?_⟩
  rw [hhalted]
  exact entryAction_halted i s

end Sys2Proof.Machine
end

section
/-! PROOFS. The state as a whole (10_state.md): the state at power-on and after reset, the elements no tick writes, how the
machine halts, and that the resolver's scratch reaches nothing the host can observe. -/

namespace Sys2Proof.Machine

/-! ### Power-on and reset -/

/-- Between instructions and before the top of memory is passed, the invariant asks for canonical memory alone. -/
theorem State.inv_of_boundary {s : State} (hmem : s.mem.wf = true) (hovf : s.ipOvf = false) (hq : s.Boundary) : s.Inv where
  memWf := hmem
  ovfOk := fun h => absurd (hovf.symm.trans h) Bool.false_ne_true
  queueOk := State.queueOk_of_boundary hq

/-- Settles O40: both states are at a boundary with `IP_OVF = 0` and no cell listed. -/
theorem invariantHoldsAtReset : Obligations.InvariantHoldsAtReset :=
  ⟨State.inv_of_boundary rfl rfl rfl, fun _ _ => State.inv_of_boundary rfl rfl rfl⟩

/-- The reset vector read from a memory in which nothing is written (R28, R31). -/
theorem Memory.readWord_nil (lo hi : Word) : Memory.readWord [] lo hi = 0x0000 := by
  simp only [Memory.readWord, Memory.read, Memory.get_nil]
  rfl

/-- Settles O51: memory is empty, so the vector reads as zero; every other element is as `INIT` or `reset()` sets it. -/
theorem powerOnAndResetState : Obligations.PowerOnAndResetState :=
  ⟨fun _ _ _ => ⟨rfl, rfl, rfl, Memory.readWord_nil .., rfl, rfl, rfl, rfl, rfl, rfl⟩, rfl⟩

/-! ### What a tick does to the flags -/

/-- The flags are left, or `Z` and `N` are set from a byte: all that a tick can do to them (R121, R123). -/
def FlagsKeptOrSetZN (f g : Flags) : Prop := g = f ∨ ∃ v, g = f.setZN v

/-- `SetZN` has no access to the six unconnected flags (R17, R123). -/
theorem FlagsKeptOrSetZN.unconnected {f g : Flags} (h : FlagsKeptOrSetZN f g) :
    g.c = f.c ∧ g.i = f.i ∧ g.d = f.d ∧ g.b0 = f.b0 ∧ g.b1 = f.b1 ∧ g.v = f.v := by
  obtain rfl | ⟨v, rfl⟩ := h <;> simp

theorem State.writeTarget_keptOrSetZN (s : State) (t : Sel) (v : Byte) :
    FlagsKeptOrSetZN s.flags (s.writeTarget t v).flags := by
  rw [State.writeTarget_flags]
  split
  · exact .inr ⟨v, rfl⟩
  · exact .inl rfl

theorem execute_flags {u : MicroOp} {s t : State} (h : execute u s = .next t) : FlagsKeptOrSetZN s.flags t.flags := by
  rcases execute_next h with ⟨r, _, _, rfl⟩ | ⟨_, _, rfl⟩ | ⟨_, _, rfl⟩ | ⟨_, _, rfl⟩ | ⟨_, _, rfl⟩ | ⟨_, _, rfl⟩ |
    ⟨_, _, rfl⟩ | ⟨r, _, rfl⟩ | ⟨_, _, rfl⟩
  case inl => exact s.advanceIp.writeTarget_keptOrSetZN r _
  case inr.inr.inr.inr.inr.inr.inr.inl => exact s.writeTarget_keptOrSetZN r _
  all_goals exact .inl rfl

theorem entryAction_flags (e : Entry) (s : State) : FlagsKeptOrSetZN s.flags (entryAction e s).flags := by
  cases e with
  | transfer f t => exact s.writeTarget_keptOrSetZN (regSel t) _
  | _ => exact .inl rfl

theorem step_flags {s t : State} (h : step s = .next t) : FlagsKeptOrSetZN s.flags t.flags := by
  obtain ⟨u, q, t', -, hexec, rfl⟩ | ⟨-, -, rfl⟩ := step_next h
  · rw [State.dequeue_flags]
    exact execute_flags hexec
  · exact entryAction_flags _ s.advanceIp

/-- No tick writes the parameters or `SP` (R12). -/
theorem step_cfg_sp {s t : State} (h : step s = .next t) : t.cfg = s.cfg ∧ t.sp = s.sp := by
  obtain ⟨u, q, t', -, hexec, rfl⟩ | ⟨-, -, rfl⟩ := step_next h
  · obtain ⟨hcfg, hsp, -⟩ := execute_frame hexec
    exact ⟨hcfg, hsp⟩
  · obtain ⟨hcfg, hsp, -⟩ := entryAction_frame (decodeOpcode s.cfg (s.mem.read s.ip)).entry s.advanceIp
    exact ⟨hcfg, hsp⟩

/-- Settles O44: a tick reaches the flags through `SetZN` only, and neither `SP` nor the parameters at all. -/
theorem unconnectedStateNeverChanges : Obligations.UnconnectedStateNeverChanges := by
  intro s t h
  obtain ⟨hc, hi, hd, hb0, hb1, hv⟩ := (step_flags h).unconnected
  obtain ⟨hcfg, hsp⟩ := step_cfg_sp h
  exact ⟨hc, hi, hd, hb0, hb1, hv, hsp, hcfg⟩

/-! ### How the machine halts -/

/-- Each row of the decoder's table stands under its instruction's opcode byte (R66, R67). -/
theorem encodeOpcode_of_mem_tableRows (cfg : Config) : ∀ r ∈ tableRows cfg, encodeOpcode r.2 = r.1 := by
  obtain ⟨e, t⟩ := cfg
  revert e t
  decide

/-- The instruction decoded from an opcode byte has that opcode byte (R64, R70). -/
theorem encodeOpcode_decodeOpcode (cfg : Config) (op : Byte) : encodeOpcode (decodeOpcode cfg op) = op := by
  unfold decodeOpcode
  split
  next i hrow =>
    obtain ⟨before, after, hrows, -⟩ := List.lookup_eq_some_iff.mp hrow
    exact encodeOpcode_of_mem_tableRows cfg (op, i) (by simp [hrows])
  next => rfl

theorem eq_haltOpcode_of_decodeOpcode {cfg : Config} {op : Byte} (h : decodeOpcode cfg op = .hlt) : op = haltOpcode := by
  rw [← encodeOpcode_decodeOpcode cfg op, h]
  rfl

/-- Settles O45: only the handler of `hlt` writes `HALTED`, and its opcode byte is 0xFF. -/
theorem onlyHltHalts : Obligations.OnlyHltHalts := by
  intro s t h
  obtain ⟨u, q, t', -, hexec, rfl⟩ | ⟨hq, -, rfl⟩ := step_next h
  · obtain ⟨-, -, hhalted, -⟩ := execute_frame hexec
    rw [State.dequeue_halted, hhalted]
    exact ⟨id, fun hs ht => absurd (hs.symm.trans ht) Bool.false_ne_true⟩
  · rw [entryAction_halted, State.advanceIp_halted]
    refine ⟨.inl, fun hs ht => ?_⟩
    have hhlt : decodeOpcode s.cfg (s.mem.read s.ip) = .hlt := ht.resolve_left (by simp [hs])
    rw [hhlt]
    exact ⟨hq, entryAction_queue Instr.hlt.entry hq, eq_haltOpcode_of_decodeOpcode hhlt⟩

/-! ### The resolver's scratch -/

/-- The state with other scratch: `EAP` and the latches `T0` and `T1` (R22, R23). -/
def State.withScratch (s : State) (eah eal t0 t1 : Byte) : State := { s with eah := eah, eal := eal, t0 := t0, t1 := t1 }

theorem AgreeButScratch.eq_withScratch {s s' : State} (h : AgreeButScratch s s') :
    ∃ eah eal t0 t1, s' = s.withScratch eah eal t0 t1 :=
  ⟨_, _, _, _, h⟩

section
variable (s : State) (eah eal t0 t1 : Byte)

@[simp] theorem State.observe_withScratch : (s.withScratch eah eal t0 t1).observe = s.observe := rfl
@[simp] theorem State.ea_withScratch (m : Mode) : (s.withScratch eah eal t0 t1).ea m = s.ea m := rfl
@[simp] theorem State.operand1_withScratch : (s.withScratch eah eal t0 t1).operand1 = s.operand1 := rfl

@[simp] theorem State.readSel_withScratch (r : Reg) :
    (s.withScratch eah eal t0 t1).readSel (regSel r) = s.readSel (regSel r) := by
  cases r <;> rfl

@[simp] theorem State.skip_withScratch (n : Nat) :
    (s.withScratch eah eal t0 t1).skip n = (s.skip n).withScratch eah eal t0 t1 := by
  induction n generalizing s with
  | zero => rfl
  | succ n ih => exact ih s.advanceIp

end

theorem State.Ready.withScratch {i : Instr} {s : State} (h : s.Ready i) (eah eal t0 t1 : Byte) :
    (s.withScratch eah eal t0 t1).Ready i :=
  ⟨h.boundary, h.operands⟩

/-- Of the address phase the host sees only that the operand bytes are consumed (R27). -/
theorem State.observe_resolve (s : State) (m : Mode) (ea : Word) :
    (s.resolve m ea).observe = (s.skip m.operandBytes).observe := by
  cases m <;> rfl

/-- A byte written to a register shows equally in states that look the same. -/
theorem State.observe_writeTarget_congr {s s' : State} (h : s.observe = s'.observe) (t : Sel) (v : Byte) :
    (s.writeTarget t v).observe = (s'.writeTarget t v).observe := by
  simp only [State.observe, Observable.mk.injEq] at h ⊢
  simp [h]

/-- So does a byte stored. -/
theorem State.observe_store_congr {s s' : State} (h : s.observe = s'.observe) (k : Word) (v : Byte) :
    (s.store k v).observe = (s'.store k v).observe := by
  simp only [State.observe, Observable.mk.injEq] at h ⊢
  simp [h]

/-- The address phase shows equally whatever the scratch was (R137). -/
theorem State.observe_resolve_withScratch (s : State) (eah eal t0 t1 : Byte) (m : Mode) (ea : Word) :
    ((s.withScratch eah eal t0 t1).resolve m ea).observe = (s.resolve m ea).observe := by
  simp [State.observe_resolve]

/-- A load in Immediate mode has no address phase (R81, R168). -/
theorem netLoad_imm (t : Reg) (s : State) : netLoad .imm t s = (s.skip 1).writeTarget (regSel t) s.operand1 := rfl

theorem observe_netLoad_withScratch (m : Mode) (t : Reg) (s : State) (eah eal t0 t1 : Byte) :
    (netLoad m t (s.withScratch eah eal t0 t1)).observe = (netLoad m t s).observe := by
  cases hea : s.ea m with
  | some ea =>
    rw [(load_of_ea hea t).2, (load_of_ea ((s.ea_withScratch ..).trans hea) t).2]
    exact State.observe_writeTarget_congr (s.observe_resolve_withScratch ..) _ _
  | none =>
    cases m with
    | imp => rfl
    | imm =>
      rw [netLoad_imm, netLoad_imm, State.skip_withScratch, State.operand1_withScratch]
      exact State.observe_writeTarget_congr (State.observe_withScratch ..) _ _
    | _ => cases hea

theorem observe_netStore_withScratch (m : Mode) (r : Reg) (s : State) (eah eal t0 t1 : Byte) :
    (netStore m r (s.withScratch eah eal t0 t1)).observe = (netStore m r s).observe := by
  cases hea : s.ea m with
  | some ea =>
    rw [(store_of_ea hea r).2, (store_of_ea ((s.ea_withScratch ..).trans hea) r).2, State.readSel_withScratch]
    exact State.observe_store_congr (s.observe_resolve_withScratch ..) _ _
  | none => simp [netStore, hea]

theorem observe_netEffect_withScratch (e : Entry) (s : State) (eah eal t0 t1 : Byte) :
    (netEffect e (s.withScratch eah eal t0 t1)).observe = (netEffect e s).observe := by
  cases e with
  | unmapped => rfl
  | halt => rfl
  | load t m => exact observe_netLoad_withScratch m t s ..
  | store r m => exact observe_netStore_withScratch m r s ..
  | transfer f t =>
    simp only [netEffect, transfer, State.readSel_withScratch]
    exact State.observe_writeTarget_congr (s.observe_withScratch ..) _ _

/-- Settles O26: both runs end in the net effect, which computes its address afresh from registers, operands and memory. -/
theorem scratchNeverReachesTheHost : Obligations.ScratchNeverReachesTheHost := by
  intro i s s' hready hagree
  obtain ⟨eah, eal, t0, t1, rfl⟩ := hagree.eq_withScratch
  exact ⟨_, _, hready.completes, (hready.withScratch ..).completes,
    (observe_netEffect_withScratch i.entry s ..).symm⟩

end Sys2Proof.Machine
end

section
/-! PROOFS. Memory (20_memory.md): it is plain storage, its canonical form is unique, only a store writes it, and a tick
touches one cell of it at most. -/

namespace Sys2Proof.Machine

/-! ### Reading and writing -/

theorem Memory.read_write_read (m : Memory) (k j : Word) : (m.write k (m.read k)).read j = m.read j := by
  rw [Memory.read_write]
  split
  next hj => rw [hj]
  next => rfl

/-- Settles O38: the laws of `write`, and that the two micro-ops of memory have no check that could fail. -/
theorem memoryIsPlainStorage : Obligations.MemoryIsPlainStorage := by
  refine ⟨fun m k j v => ⟨?_, fun hj => ?_, m.read_write_read k j, Memory.wf_write k v⟩,
    fun s r => ⟨_, rfl, rfl⟩, fun s r => ⟨_, rfl, s.writeTarget_mem r _⟩⟩
  · rw [Memory.read_write, if_pos rfl]
  · rw [Memory.read_write, if_neg hj]

/-! ### The canonical form is unique -/

@[simp] theorem Memory.get_cons_self (k : Nat) (w : Byte) (t : Memory) : Memory.get ((k, w) :: t) k = w := if_pos rfl

theorem Memory.wfFrom_cons {lo k : Nat} {w : Byte} {t : Memory} :
    Memory.wfFrom lo ((k, w) :: t) = true ↔
      lo ≤ k ∧ k < memSize ∧ w ≠ Memory.unlisted ∧ Memory.wfFrom (k + 1) t = true := by
  simp only [Memory.wfFrom, Bool.and_eq_true, decide_eq_true_eq, bne_iff_ne, and_assoc]

/-- A cell that does not read as an unlisted one is not below the bound of the form. -/
theorem Memory.le_of_get_ne_unlisted {lo k : Nat} {m : Memory} (h : m.wfFrom lo = true) (hk : m.get k ≠ Memory.unlisted) :
    lo ≤ k :=
  Nat.le_of_not_lt fun hlt => hk (Memory.get_of_wfFrom_lt h hlt)

/-- The first listed address is the least one that does not read as unlisted, so equal readings give equal heads; below
them the tails list nothing, so the tails read the same too. -/
theorem Memory.eq_of_wfFrom {lo lo' : Nat} {m m' : Memory} (h : m.wfFrom lo = true) (h' : m'.wfFrom lo' = true)
    (hget : ∀ k < memSize, m.get k = m'.get k) : m = m' := by
  induction m generalizing lo lo' m' with
  | nil =>
    cases m' with
    | nil => rfl
    | cons c' t' =>
      obtain ⟨j, w⟩ := c'
      obtain ⟨-, hj, hw, -⟩ := Memory.wfFrom_cons.mp h'
      exact absurd (by simpa using (hget j hj).symm) hw
  | cons c t ih =>
    obtain ⟨i, v⟩ := c
    obtain ⟨-, hi, hv, ht⟩ := Memory.wfFrom_cons.mp h
    cases m' with
    | nil => exact absurd (by simpa using hget i hi) hv
    | cons c' t' =>
      obtain ⟨j, w⟩ := c'
      obtain ⟨-, hj, hw, ht'⟩ := Memory.wfFrom_cons.mp h'
      have hgeti : Memory.get ((j, w) :: t') i = v := by rw [← hget i hi, Memory.get_cons_self]
      have hgetj : Memory.get ((i, v) :: t) j = w := by rw [hget j hj, Memory.get_cons_self]
      have hji : j ≤ i := Memory.le_of_get_ne_unlisted (Memory.wfFrom_cons.mpr ⟨Nat.le_refl _, hj, hw, ht'⟩) (hgeti ▸ hv)
      have hij : i ≤ j := Memory.le_of_get_ne_unlisted (Memory.wfFrom_cons.mpr ⟨Nat.le_refl _, hi, hv, ht⟩) (hgetj ▸ hw)
      obtain rfl := Nat.le_antisymm hij hji
      rw [Memory.get_cons_self] at hgetj
      subst hgetj
      refine congrArg ((i, v) :: ·) (ih ht ht' fun k hk => ?_)
      by_cases hki : k = i
      · rw [hki, Memory.get_of_wfFrom_lt ht i.lt_succ_self, Memory.get_of_wfFrom_lt ht' i.lt_succ_self]
      · simpa [Memory.get_cons, hki] using hget k hk

/-- Settles O39, by induction on the lists of cells. -/
theorem canonicalMemoriesAreDeterminedByTheirBytes : Obligations.CanonicalMemoriesAreDeterminedByTheirBytes := by
  intro m m' h h' hread
  refine Memory.eq_of_wfFrom h h' fun k hk => ?_
  have hk' : (BitVec.ofNat 16 k).toNat = k := Nat.mod_eq_of_lt hk
  simpa only [Memory.read, hk'] using hread (BitVec.ofNat 16 k)

/-! ### Only a store writes memory -/

/-- A micro-op other than WriteMem leaves memory (R128 to R136). -/
theorem execute_mem {u : MicroOp} {s t : State} (h : execute u s = .next t) : (∃ r, u = .writeMem r) ∨ t.mem = s.mem := by
  rcases execute_next h with ⟨_, _, _, rfl⟩ | ⟨_, _, rfl⟩ | ⟨_, _, rfl⟩ | ⟨_, _, rfl⟩ | ⟨_, _, rfl⟩ | ⟨_, _, rfl⟩ |
    ⟨_, _, rfl⟩ | ⟨_, _, rfl⟩ | ⟨r, rfl, _⟩
  case inr.inr.inr.inr.inr.inr.inr.inr => exact .inl ⟨r, rfl⟩
  all_goals simp

/-- No load's sequence holds a WriteMem (R137). -/
theorem writeMem_not_mem_loadSeq (r : Sel) (m : Mode) (t : Reg) : MicroOp.writeMem r ∉ loadSeq m t := by
  cases m <;> simp [loadSeq, addressOps, zeroPageOps, absoluteOps, pointerOps]

/-- Only the sequence of a store holds a WriteMem (R103). -/
theorem store_of_writeMem_mem_entrySeq {r : Sel} {e : Entry} (h : MicroOp.writeMem r ∈ entrySeq e) :
    ∃ q m, e = .store q m := by
  cases e with
  | store q m => exact ⟨q, m, rfl⟩
  | load t m => exact absurd h (writeMem_not_mem_loadSeq r m t)
  | _ => cases h

/-- Stores exist under `EXT_STORE` only (R66, R67, R170). -/
theorem extStore_of_wf_store {i : Instr} {cfg : Config} {r : Reg} {m : Mode} (h : i.wf cfg = true)
    (he : i.entry = .store r m) : cfg.extStore = true := by
  cases i with
  | unmapped op => cases he
  | _ => simpa only [Instr.wf, he] using h

/-- With the invariant, a WriteMem is in the queue under `EXT_STORE` only (R125). -/
theorem State.QueueOk.extStore_of_writeMem {s : State} (h : s.QueueOk) {r : Sel} (hr : MicroOp.writeMem r ∈ s.queue) :
    s.cfg.extStore = true := by
  obtain ⟨i, hwf, hsuffix⟩ := h
  obtain ⟨q, m, he⟩ := store_of_writeMem_mem_entrySeq (hsuffix.subset hr)
  exact extStore_of_wf_store hwf he

/-- Settles O43: only WriteMem writes memory, and the queue of the base machine never holds one. -/
theorem baseMachineNeverWritesMemory : Obligations.BaseMachineNeverWritesMemory := by
  intro s t hinv hext h
  obtain ⟨u, q, t', hq, hexec, rfl⟩ | ⟨-, -, rfl⟩ := step_next h
  · obtain ⟨r, rfl⟩ | hmem := execute_mem hexec
    · have hstore : s.cfg.extStore = true := hinv.queueOk.extStore_of_writeMem (r := r) (by simp [hq])
      exact absurd (hext.symm.trans hstore) Bool.false_ne_true
    · exact hmem
  · obtain ⟨-, -, -, -, -, -, -, -, hmem⟩ := entryAction_frame (decodeOpcode s.cfg (s.mem.read s.ip)).entry s.advanceIp
    exact hmem

/-! ### The cells a tick touches -/

theorem length_fetchReads_le (s : State) : (fetchReads s).length ≤ 1 := by
  unfold fetchReads
  split <;> simp

/-- A micro-op makes one memory access at most (R46). -/
theorem length_microReads_add_microWrites_le (u : MicroOp) (s : State) :
    (microReads u s).length + (microWrites u s).length ≤ 1 := by
  cases u with
  | fetchByte t => exact length_fetchReads_le s
  | fetchAddrLo => exact length_fetchReads_le s
  | fetchAddrHi => exact length_fetchReads_le s
  | _ => simp [microReads, microWrites]

theorem tickReads_of_cons {s : State} {u : MicroOp} {q : List MicroOp} (h : s.queue = u :: q) :
    tickReads s = microReads u s := by
  simp only [tickReads, h]

theorem tickReads_of_nil {s : State} (h : s.queue = []) : tickReads s = fetchReads s := by
  simp only [tickReads, h]

theorem tickWrites_of_cons {s : State} {u : MicroOp} {q : List MicroOp} (h : s.queue = u :: q) :
    tickWrites s = microWrites u s := by
  simp only [tickWrites, h]

theorem tickWrites_of_nil {s : State} (h : s.queue = []) : tickWrites s = [] := by
  simp only [tickWrites, h]

theorem length_tickReads_add_tickWrites_le (s : State) : (tickReads s).length + (tickWrites s).length ≤ 1 := by
  cases hq : s.queue with
  | nil =>
    rw [tickReads_of_nil hq, tickWrites_of_nil hq]
    exact length_fetchReads_le s
  | cons u q =>
    rw [tickReads_of_cons hq, tickWrites_of_cons hq]
    exact length_microReads_add_microWrites_le u s

theorem ip_mem_fetchReads {s : State} (h : s.ipOvf = false) : s.ip ∈ fetchReads s := by
  simp [fetchReads, h]

/-! ### A state with another memory -/

/-- The state with `m` for its memory. -/
def State.withMem (s : State) (m : Memory) : State := { s with mem := m }

theorem State.readSel_withMem (s : State) (m : Memory) (r : Sel) : (s.withMem m).readSel r = s.readSel r := by
  cases r <;> rfl

theorem State.srcVal_withMem (s : State) (m : Memory) (src : Src) : (s.withMem m).srcVal src = s.srcVal src := by
  cases src with
  | const b => rfl
  | reg r => exact s.readSel_withMem m r

theorem State.writeTarget_withMem (s : State) (m : Memory) (t : Sel) (v : Byte) :
    (s.withMem m).writeTarget t v = (s.writeTarget t v).withMem m := by
  cases t <;> rfl

/-- The action of a table entry neither reads nor writes memory (R103). -/
theorem entryAction_withMem (e : Entry) (s : State) (m : Memory) :
    entryAction e (s.withMem m) = (entryAction e s).withMem m := by
  cases e with
  | transfer f t =>
    simp only [entryAction, transfer, State.readSel_withMem]
    exact s.writeTarget_withMem m (regSel t) _
  | _ => rfl

/-- A micro-op that answers a next state did not fetch past the top of memory, and did what `microEffect` says (R127). -/
theorem execute_next_microEffect {u : MicroOp} {s t : State} (h : execute u s = .next t) :
    (microFetches u = true → s.ipOvf = false) ∧ t = microEffect u s := by
  have hin : microFetches u = true → s.ipOvf = false := by
    intro hu
    cases u with
    | fetchByte r => rw [execute, microFetchByte] at h; exact (fetchIp_next h).1
    | fetchAddrLo => rw [execute, microFetchAddrLo] at h; exact (fetchIp_next h).1
    | fetchAddrHi => rw [execute, microFetchAddrHi] at h; exact (fetchIp_next h).1
    | _ => cases hu
  rw [execute_eq_microEffect hin] at h
  cases h
  exact ⟨hin, rfl⟩

/-- `m` reads as `written` at the cells `writes`, and as `before` at every other cell. -/
def Memory.WrittenAt (m before written : Memory) (writes : List Word) : Prop :=
  (∀ a ∉ writes, m.read a = before.read a) ∧ ∀ a ∈ writes, m.read a = written.read a

theorem Memory.writtenAt_nil (m written : Memory) : m.WrittenAt m written [] :=
  ⟨fun _ _ => rfl, fun _ ha => absurd ha List.not_mem_nil⟩

theorem Memory.writtenAt_write (before before' : Memory) (k : Word) (v : Byte) :
    (before.write k v).WrittenAt before (before'.write k v) [k] := by
  refine ⟨fun a ha => ?_, fun a ha => ?_⟩
  · rw [Memory.read_write, if_neg (by simpa using ha)]
  · rw [Memory.read_write, Memory.read_write, if_pos (by simpa using ha), if_pos (by simpa using ha)]

/-- Of memory, a micro-op's effect depends on the cells it reads only, and does the same to the cells it writes (R46). -/
theorem microEffect_withMem {u : MicroOp} {s : State} {m : Memory} (hin : microFetches u = true → s.ipOvf = false)
    (h : ∀ a ∈ microReads u s, m.read a = s.mem.read a) :
    ∃ m', microEffect u (s.withMem m) = (microEffect u s).withMem m' ∧
      m'.WrittenAt m (microEffect u s).mem (microWrites u s) := by
  have hip (hu : microFetches u = true) (hr : microReads u s = fetchReads s) : m.read s.ip = s.mem.read s.ip :=
    h s.ip (hr ▸ ip_mem_fetchReads (hin hu))
  cases u with
  | fetchByte t =>
    refine ⟨m, ?_, m.writtenAt_nil _⟩
    rw [microEffect, microEffect, ← hip rfl rfl]
    exact s.advanceIp.writeTarget_withMem m t _
  | fetchAddrLo =>
    refine ⟨m, ?_, m.writtenAt_nil _⟩
    rw [microEffect, microEffect, ← hip rfl rfl]
    rfl
  | fetchAddrHi =>
    refine ⟨m, ?_, m.writtenAt_nil _⟩
    rw [microEffect, microEffect, ← hip rfl rfl]
    rfl
  | readMem t =>
    refine ⟨m, ?_, m.writtenAt_nil _⟩
    rw [microEffect, microEffect, ← h s.eap (by simp [microReads])]
    exact s.writeTarget_withMem m t _
  | writeMem r =>
    refine ⟨m.write s.eap (s.readSel r), ?_, m.writtenAt_write s.mem _ _⟩
    rw [microEffect, State.readSel_withMem]
    rfl
  | _ =>
    refine ⟨m, ?_, m.writtenAt_nil _⟩
    simp only [microEffect, State.srcVal_withMem]
    rfl

/-- Of memory, a tick's result depends on the cells it reads only, and it does the same to the cells it writes (R46). -/
theorem step_withMem {s t : State} {m : Memory} (h : step s = .next t)
    (hread : ∀ a ∈ tickReads s, m.read a = s.mem.read a) :
    ∃ m', step (s.withMem m) = .next (t.withMem m') ∧ m'.WrittenAt m t.mem (tickWrites s) := by
  obtain ⟨u, q, t', hq, hexec, rfl⟩ | ⟨hq, hin, rfl⟩ := step_next h
  · obtain ⟨hin, rfl⟩ := execute_next_microEffect hexec
    rw [tickReads_of_cons hq] at hread
    rw [tickWrites_of_cons hq]
    obtain ⟨m', heffect, hm'⟩ := microEffect_withMem hin hread
    refine ⟨m', ?_, hm'⟩
    have hexec' : execute u (s.withMem m) = .next ((microEffect u s).withMem m') := by
      rw [execute_eq_microEffect (s := s.withMem m) hin, heffect]
    exact step_cons (s := s.withMem m) hq hexec'
  · rw [tickReads_of_nil hq] at hread
    rw [tickWrites_of_nil hq]
    refine ⟨m, ?_, m.writtenAt_nil _⟩
    rw [← hread s.ip (ip_mem_fetchReads hin), ← entryAction_withMem]
    exact step_nil (s := s.withMem m) hq hin

/-- Settles O47: one access for each micro-op and each fetch, and two runs of the tick that read the same byte. -/
theorem aTickTouchesOneMemoryCell : Obligations.ATickTouchesOneMemoryCell := by
  refine fun s => ⟨length_tickReads_add_tickWrites_le s, fun m t hread h => ?_⟩
  obtain ⟨m', hstep, hkept, hwritten⟩ := step_withMem h hread
  exact ⟨t.withMem m', hstep, rfl, hkept, hwritten⟩

end Sys2Proof.Machine
end

section
/-! PROOFS. The encoding (30_encoding.md): the rows of the dispatch table, that decoding an opcode byte and encoding an
instruction undo each other, and the same with the operand bytes. -/

namespace Sys2Proof.Machine

/-! ### Opcode bytes -/

open Laws.OpcodeRoundTrip in
/-- The round trip of an opcode byte (R64) holds of every instruction: one law for each constructor, in their order. -/
theorem opcodeRoundTrip (i : Instr) : Statement i :=
  Instr.casesOn (motive := Statement) i
    ldaImm ldaZp ldaZpx ldaAbs ldaAbx ldaAby ldaIzx ldaIzy
    ldxImm ldxZp ldxZpy ldxAbs ldxAby
    ldyImm ldyZp ldyZpx ldyAbs ldyAbx
    hlt unmapped
    staZp staZpx staAbs staAbx staAby staIzx staIzy
    stxZp stxZpy stxAbs
    styZp styZpx styAbs
    tax tay txa tya

/-- Where an instruction exists, its opcode byte decodes to it (R64). -/
theorem decodeOpcode_encodeOpcode {cfg : Config} {i : Instr} (h : i.wf cfg = true) :
    decodeOpcode cfg (encodeOpcode i) = i :=
  opcodeRoundTrip i cfg h

/-- The rows of a machine are for instructions that exist in it (R66, R67, R170). -/
theorem wf_of_mem_tableRows {cfg : Config} : ∀ r ∈ tableRows cfg, r.2.wf cfg = true := by
  obtain ⟨e, t⟩ := cfg
  revert e t
  decide

/-- No two rows share an opcode byte: each byte decodes to the instruction of its row. -/
theorem decodeOpcode_of_mem_tableRows {cfg : Config} {r : Byte × Instr} (h : r ∈ tableRows cfg) :
    decodeOpcode cfg r.1 = r.2 := by
  rw [← encodeOpcode_of_mem_tableRows cfg r h]
  exact decodeOpcode_encodeOpcode (wf_of_mem_tableRows r h)

/-- The decoder's rows stand under the very opcode values that `mappedOpcodes` lists (R66, R67). -/
theorem mem_mappedOpcodes_iff {cfg : Config} {op : Byte} :
    op ∈ mappedOpcodes cfg ↔ op ∈ (tableRows cfg).map Prod.fst := by
  obtain ⟨e, t⟩ := cfg
  have hrow : ∀ e t, ∀ op ∈ mappedOpcodes ⟨e, t⟩, op ∈ (tableRows ⟨e, t⟩).map Prod.fst := by decide
  exact ⟨hrow e t op, List.forall_mem_map.mpr (Laws.OpcodeRoundTrip.rows_mapped e t) op⟩

theorem wf_unmapped_iff {cfg : Config} {op : Byte} : (Instr.unmapped op).wf cfg = true ↔ op ∉ mappedOpcodes cfg := by
  simp [Instr.wf]

/-- What an opcode byte decodes to exists in the machine (R64, R170). -/
theorem decodeOpcode_wf (cfg : Config) (op : Byte) : (decodeOpcode cfg op).wf cfg = true := by
  by_cases hop : op ∈ mappedOpcodes cfg
  · obtain ⟨r, hr, rfl⟩ := List.mem_map.mp (mem_mappedOpcodes_iff.mp hop)
    rw [decodeOpcode_of_mem_tableRows hr]
    exact wf_of_mem_tableRows r hr
  · rw [decodeOpcode_of_not_mapped hop]
    exact wf_unmapped_iff.mpr hop

/-! ### Instructions with their operand bytes -/

theorem Code.wf_iff {cfg : Config} {c : Code} :
    c.wf cfg = true ↔ c.instr.wf cfg = true ∧ c.operands.length = c.instr.mode.operandBytes := by
  simp [Code.wf]

/-- With enough bytes at hand the decoder answers (R60). -/
theorem decode_cons_of_le {cfg : Config} {op : Byte} {bytes : List Byte}
    (h : (decodeOpcode cfg op).mode.operandBytes ≤ bytes.length) :
    decode cfg (op :: bytes) =
      .ok (⟨decodeOpcode cfg op, bytes.take (decodeOpcode cfg op).mode.operandBytes⟩,
        bytes.drop (decodeOpcode cfg op).mode.operandBytes) :=
  if_neg (Nat.not_lt.mpr h)

/-- The decoder answers exactly when the bytes are an opcode byte, as many operand bytes as its mode consumes, and the
bytes after them (R60, R61). -/
theorem decode_eq_ok_iff {cfg : Config} {bytes rest : List Byte} {c : Code} :
    decode cfg bytes = .ok (c, rest) ↔
      ∃ op, bytes = op :: (c.operands ++ rest) ∧ decodeOpcode cfg op = c.instr ∧
        c.operands.length = c.instr.mode.operandBytes := by
  constructor
  · intro h
    cases bytes with
    | nil => cases h
    | cons op tail =>
      by_cases hlen : (decodeOpcode cfg op).mode.operandBytes ≤ tail.length
      · rw [decode_cons_of_le hlen] at h
        cases h
        exact ⟨op, by rw [List.take_append_drop], rfl, List.length_take_of_le hlen⟩
      · rw [decode, if_pos (Nat.lt_of_not_le hlen)] at h
        cases h
  · obtain ⟨i, operands⟩ := c
    rintro ⟨op, rfl, rfl, hlen⟩
    rw [decode_cons_of_le (by simp [hlen]), ← hlen, List.take_left, List.drop_left]

/-- Settles O1: the opcode byte decodes to the instruction, and the operand bytes are as many as its mode consumes. -/
theorem decodeEncodeRoundTrip : Obligations.DecodeEncodeRoundTrip := by
  intro cfg c rest h
  obtain ⟨hinstr, hlen⟩ := Code.wf_iff.mp h
  exact decode_eq_ok_iff.mpr ⟨encodeOpcode c.instr, rfl, decodeOpcode_encodeOpcode hinstr, hlen⟩

/-- Settles O2, from what the decoder answers and when. -/
theorem decodedBytesReencode : Obligations.DecodedBytesReencode := by
  intro cfg bytes rest c h
  obtain ⟨op, rfl, hop, hlen⟩ := decode_eq_ok_iff.mp h
  refine ⟨Code.wf_iff.mpr ⟨hop ▸ decodeOpcode_wf cfg op, hlen⟩, ?_, ?_⟩
  · rw [encode, ← hop, encodeOpcode_decodeOpcode, List.cons_append]
  · rw [encode, List.length_cons, hlen, Instr.length, Nat.add_comm]

/-- The longest instruction has three bytes (R60). -/
theorem Mode.operandBytes_le_two (m : Mode) : m.operandBytes ≤ 2 := by
  cases m <;> decide

/-- Settles O3: no instruction needs more than the two bytes after its opcode byte. -/
theorem everyOpcodeByteIsOneInstruction : Obligations.EveryOpcodeByteIsOneInstruction := fun cfg op _ _ =>
  ⟨decodeOpcode_wf cfg op, encodeOpcode_decodeOpcode cfg op, _, _, decode_cons_of_le (Mode.operandBytes_le_two _), rfl⟩

/-! ### The rows of the dispatch table -/

/-- No machine maps 0x02 (R65). -/
theorem not_mem_mappedOpcodes_0x02 (cfg : Config) : (0x02 : Byte) ∉ mappedOpcodes cfg := by
  obtain ⟨e, t⟩ := cfg
  revert e t
  decide

/-- Settles O4: four of the five are opcode bytes of instructions that every machine has, and no machine maps the fifth. -/
theorem sourceOpcodesDecode : Obligations.SourceOpcodesDecode := fun cfg =>
  ⟨decodeOpcode_encodeOpcode (i := .ldaImm) rfl, decodeOpcode_encodeOpcode (i := .ldaZpx) rfl,
    decodeOpcode_encodeOpcode (i := .ldaIzx) rfl, decodeOpcode_encodeOpcode (i := .hlt) rfl,
    decodeOpcode_of_not_mapped (not_mem_mappedOpcodes_0x02 cfg)⟩

theorem entry_ne_unmapped_of_mem_tableRows {cfg : Config} : ∀ r ∈ tableRows cfg, r.2.entry ≠ .unmapped := by
  obtain ⟨e, t⟩ := cfg
  revert e t
  decide

/-- A byte decodes to `Unmapped` exactly when it is no mapped opcode (R64). -/
theorem entry_decodeOpcode_eq_unmapped_iff {cfg : Config} {op : Byte} :
    (decodeOpcode cfg op).entry = .unmapped ↔ op ∉ mappedOpcodes cfg := by
  refine ⟨fun h hop => ?_, fun h => by rw [decodeOpcode_of_not_mapped h, Instr.entry]⟩
  obtain ⟨r, hr, rfl⟩ := List.mem_map.mp (mem_mappedOpcodes_iff.mp hop)
  rw [decodeOpcode_of_mem_tableRows hr] at h
  exact entry_ne_unmapped_of_mem_tableRows r hr h

/-- The rows of one table of the spec have their entries in a machine whose table they are in, and are `Unmapped` in one
that maps none of their bytes (R66, R67). -/
theorem entry_decodeOpcode_of_mem_rows {cfg : Config} {rows : List (Byte × Instr)} {present : Bool}
    (hpresent : present = true → rows ⊆ tableRows cfg)
    (habsent : present = false → ∀ r ∈ rows, r.1 ∉ mappedOpcodes cfg) :
    ∀ r ∈ rows.map (Prod.map id Instr.entry),
      (decodeOpcode cfg r.1).entry = if present = true then r.2 else .unmapped := by
  refine List.forall_mem_map.mpr fun r hr => ?_
  cases present with
  | true => exact congrArg Instr.entry (decodeOpcode_of_mem_tableRows (hpresent rfl hr))
  | false => exact entry_decodeOpcode_eq_unmapped_iff.mpr (habsent rfl r hr)

theorem not_mem_mappedOpcodes_of_mem_storeRows {cfg : Config} (h : cfg.extStore = false) :
    ∀ r ∈ storeRows, r.1 ∉ mappedOpcodes cfg := by
  obtain ⟨e, t⟩ := cfg
  subst h
  revert t
  decide

theorem not_mem_mappedOpcodes_of_mem_transferRows {cfg : Config} (h : cfg.extTransfer = false) :
    ∀ r ∈ transferRows, r.1 ∉ mappedOpcodes cfg := by
  obtain ⟨e, t⟩ := cfg
  subst h
  revert e
  decide

theorem baseRows_subset (cfg : Config) : baseRows ⊆ tableRows cfg := fun _ h => List.mem_append_left _ h

theorem storeRows_subset {cfg : Config} (h : cfg.extStore = true) : storeRows ⊆ tableRows cfg := fun r hr => by
  simp [tableRows, h, hr]

theorem transferRows_subset {cfg : Config} (h : cfg.extTransfer = true) : transferRows ⊆ tableRows cfg := fun r hr => by
  simp [tableRows, h, hr]

/-- A byte that is in no table of the machine is no mapped opcode (R66 last row). -/
theorem not_mem_mappedOpcodes {cfg : Config} {op : Byte} (hbase : op ∉ baseRows.map Prod.fst)
    (hstore : cfg.extStore = true → op ∉ storeRows.map Prod.fst)
    (htransfer : cfg.extTransfer = true → op ∉ transferRows.map Prod.fst) : op ∉ mappedOpcodes cfg := by
  rw [mem_mappedOpcodes_iff, tableRows, List.map_append, List.map_append, List.mem_append, List.mem_append]
  rintro (h | h | h)
  · exact hbase h
  · split at h
    next hext => exact hstore hext h
    next => cases h
  · split at h
    next hext => exact htransfer hext h
    next => cases h

theorem nodup_map_toNat {ops : List Byte} (h : ops.Nodup) : (ops.map BitVec.toNat).Nodup :=
  List.Pairwise.map BitVec.toNat (fun _ _ hne heq => hne (BitVec.eq_of_toNat_eq heq)) h

/-- The numbers of bytes that are in a list are the list's bytes read as numbers. -/
theorem filter_mem_perm_map_toNat {ops : List Byte} (h : ops.Nodup) :
    ((List.range 256).filter fun n => decide (BitVec.ofNat 8 n ∈ ops)).Perm (ops.map BitVec.toNat) := by
  refine (List.perm_ext_iff_of_nodup (List.Pairwise.filter _ List.nodup_range) (nodup_map_toNat h)).mpr fun n => ?_
  rw [List.mem_filter, List.mem_range, decide_eq_true_iff, List.mem_map]
  constructor
  · rintro ⟨hn, hop⟩
    exact ⟨BitVec.ofNat 8 n, hop, Nat.mod_eq_of_lt hn⟩
  · rintro ⟨op, hop, rfl⟩
    rw [BitVec.ofNat_toNat, BitVec.setWidth_eq]
    exact ⟨op.isLt, hop⟩

/-- Of the 256 byte values, those outside a list without repetitions are as many as its length leaves over. -/
theorem length_filter_not_mem {ops : List Byte} (h : ops.Nodup) :
    ((List.range 256).filter fun n => !decide (BitVec.ofNat 8 n ∈ ops)).length = 256 - ops.length := by
  have hsplit := (List.filter_append_perm (fun n => decide (BitVec.ofNat 8 n ∈ ops)) (List.range 256)).length_eq
  rw [List.length_append, (filter_mem_perm_map_toNat h).length_eq, List.length_map, List.length_range] at hsplit
  omega

/-- The base machine maps 19 of the 256 opcode values (R66). -/
theorem length_filter_unmapped_base :
    ((List.range 256).filter fun n => (decodeOpcode .base (BitVec.ofNat 8 n)).entry == .unmapped).length = 237 := by
  have hpred : (fun n => (decodeOpcode .base (BitVec.ofNat 8 n)).entry == .unmapped) =
      fun n => !decide (BitVec.ofNat 8 n ∈ mappedOpcodes .base) := by
    funext n
    rw [Bool.beq_eq_decide_eq, ← decide_not]
    exact decide_eq_decide.mpr entry_decodeOpcode_eq_unmapped_iff
  rw [hpred]
  exact length_filter_not_mem (ops := mappedOpcodes .base) (by decide)

/-- Settles O5: the rows of the spec are the decoder's rows. -/
theorem dispatchTableHoldsItsRows : Obligations.DispatchTableHoldsItsRows := by
  unfold Obligations.DispatchTableHoldsItsRows
  refine ⟨fun cfg => ⟨?_, ?_, ?_, fun op hbase hstore htransfer => ?_⟩, length_filter_unmapped_base⟩
  · exact entry_decodeOpcode_of_mem_rows (rows := baseRows) (present := true) (fun _ => baseRows_subset cfg) nofun
  · exact entry_decodeOpcode_of_mem_rows storeRows_subset not_mem_mappedOpcodes_of_mem_storeRows
  · exact entry_decodeOpcode_of_mem_rows transferRows_subset not_mem_mappedOpcodes_of_mem_transferRows
  · exact entry_decodeOpcode_eq_unmapped_iff.mpr (not_mem_mappedOpcodes hbase hstore htransfer)

end Sys2Proof.Machine
end

section
/-! PROOFS. Addressing (40_addressing.md): the effective addresses of the modes as numbers. An index is added to a byte, so it
wraps in the zero page or in the page of the high byte; no addition carries (R92). -/

namespace Sys2Proof.Machine

/-! ### Words and bytes as numbers -/

@[simp] theorem wordOf_zero_toNat (lo : Byte) : (wordOf 0x00 lo).toNat = lo.toNat := by
  simp [wordOf_toNat]

/-- An index moves a word inside the page of its high byte (R92). -/
theorem wordOf_add_toNat (hi lo i : Byte) :
    (wordOf hi (lo + i)).toNat = hi.toNat * 256 + (lo.toNat + i.toNat) % 256 := by
  rw [wordOf_toNat, BitVec.toNat_add]

/-- An index moves a zero-page address inside the zero page (R83, R84). -/
theorem wordOf_zero_add_toNat (lo i : Byte) : (wordOf 0x00 (lo + i)).toNat = (lo.toNat + i.toNat) % 256 := by
  rw [wordOf_zero_toNat, BitVec.toNat_add]

/-- The example of the source: operand 0xFF with index 0x02 (R83). -/
theorem wordOf_zero_add_eq_one {lo i : Byte} (hlo : lo = 0xFF) (hi : i = 0x02) : wordOf 0x00 (lo + i) = 0x0001 := by
  subst hlo hi
  decide

/-! ### The pointer of the indirect modes -/

/-- The low byte of a pointer, by the number of its cell (R44). -/
theorem pointerLo_eq_get (mem : Memory) (ptr : Byte) : pointerLo mem ptr = mem.get ptr.toNat :=
  congrArg mem.get (wordOf_zero_toNat ptr)

/-- The high byte of a pointer, by the number of its cell: the next one in the zero page (R88, R89). -/
theorem pointerHi_eq_get (mem : Memory) (ptr : Byte) : pointerHi mem ptr = mem.get ((ptr.toNat + 1) % 256) :=
  congrArg mem.get (wordOf_zero_add_toNat ptr 1)

/-! ### The statements -/

/-- Settles O33: each mode's address is a word with high byte 0x00. -/
theorem zeroPageModesWrapInTheZeroPage : Obligations.ZeroPageModesWrapInTheZeroPage := by
  unfold Obligations.ZeroPageModesWrapInTheZeroPage
  intro b1 b2 x y mem
  refine ⟨⟨_, rfl, ?_⟩, ⟨_, rfl, ?_, ?_⟩, ⟨_, rfl, ?_, ?_⟩⟩
  · exact wordOf_zero_toNat b1
  · exact wordOf_zero_add_toNat b1 x
  · exact wordOf_zero_add_eq_one
  · exact wordOf_zero_add_toNat b1 y
  · exact wordOf_zero_add_eq_one

/-- Settles O34: the index is added to the low byte alone, and the sum of two bytes is below twice 256. -/
theorem indexedAbsoluteDoesNotCarry : Obligations.IndexedAbsoluteDoesNotCarry := by
  unfold Obligations.IndexedAbsoluteDoesNotCarry
  intro b1 b2 x y mem
  have hx := wordOf_add_toNat b2 b1 x
  have := b1.isLt
  have := x.isLt
  refine ⟨⟨_, rfl, ?_⟩, ⟨_, rfl, hx, ?_, ?_⟩, ⟨_, rfl, ?_⟩⟩
  · exact wordOf_toNat b2 b1
  · omega
  · omega
  · exact wordOf_add_toNat b2 b1 y

/-- Settles O35: both bytes of the pointer are cells of the zero page, and (Indirect),Y adds to the low one alone. -/
theorem indirectPointersWrapInTheZeroPage : Obligations.IndirectPointersWrapInTheZeroPage := by
  unfold Obligations.IndirectPointersWrapInTheZeroPage
  intro b1 b2 x y mem
  refine ⟨⟨_, rfl, ?_⟩, ⟨_, rfl, ?_⟩⟩
  · rw [wordOf_toNat, pointerHi_eq_get, pointerLo_eq_get, BitVec.toNat_add]
  · rw [wordOf_add_toNat, pointerHi_eq_get, pointerLo_eq_get]

end Sys2Proof.Machine
end

section
/-! PROOFS. Dispatch (41_dispatch.md): what a tick does at an instruction boundary and with micro-ops queued, how it moves
`IP`, and that every instruction inside memory runs to the next boundary and every run ends. -/

namespace Sys2Proof.Machine

/-! ### How a tick moves IP -/

theorem tickFetches_of_nil {s : State} (hq : s.queue = []) : tickFetches s = true := by
  simp only [tickFetches, hq]

theorem tickFetches_of_cons {s : State} {u : MicroOp} {q : List MicroOp} (hq : s.queue = u :: q) :
    tickFetches s = microFetches u := by
  simp only [tickFetches, hq]

theorem microEffect_ip_of_fetches {u : MicroOp} (s : State) (hu : microFetches u = true) :
    (microEffect u s).ip = s.advanceIp.ip ∧ (microEffect u s).ipOvf = s.advanceIp.ipOvf := by
  cases u with
  | fetchByte t => exact ⟨State.writeTarget_ip .., State.writeTarget_ipOvf ..⟩
  | fetchAddrLo => exact ⟨rfl, rfl⟩
  | fetchAddrHi => exact ⟨rfl, rfl⟩
  | _ => cases hu

theorem microEffect_ip_of_not_fetches {u : MicroOp} (s : State) (hu : ¬microFetches u = true) :
    (microEffect u s).ip = s.ip ∧ (microEffect u s).ipOvf = s.ipOvf := by
  cases u with
  | fetchByte t => exact absurd rfl hu
  | fetchAddrLo => exact absurd rfl hu
  | fetchAddrHi => exact absurd rfl hu
  | readMem t => exact ⟨State.writeTarget_ip .., State.writeTarget_ipOvf ..⟩
  | _ => exact ⟨rfl, rfl⟩

theorem State.ip17_of_inside {s : State} (hin : s.ipOvf = false) : s.ip17 = s.ip.toNat := by
  simp [State.ip17, hin]

/-- A tick that fetches answers inside memory only, and advances `IP` (R101, R108). -/
theorem step_ip_of_fetches {s t : State} (h : step s = .next t) (hfetch : tickFetches s = true) :
    s.ipOvf = false ∧ t.ip = s.advanceIp.ip ∧ t.ipOvf = s.advanceIp.ipOvf := by
  obtain ⟨u, q, t', hq, hexec, rfl⟩ | ⟨-, hin, rfl⟩ := step_next h
  · obtain ⟨hin, rfl⟩ := execute_next_microEffect hexec
    rw [tickFetches_of_cons hq] at hfetch
    exact ⟨hin hfetch, microEffect_ip_of_fetches s hfetch⟩
  · obtain ⟨-, -, hip, hovf, -⟩ := entryAction_frame (decodeOpcode s.cfg (s.mem.read s.ip)).entry s.advanceIp
    exact ⟨hin, hip, hovf⟩

/-- The other ticks leave `IP` (R14, R108). -/
theorem step_ip_of_not_fetches {s t : State} (h : step s = .next t) (hfetch : ¬tickFetches s = true) :
    t.ip = s.ip ∧ t.ipOvf = s.ipOvf := by
  obtain ⟨u, q, t', hq, hexec, rfl⟩ | ⟨hq, -, -⟩ := step_next h
  · obtain ⟨-, rfl⟩ := execute_next_microEffect hexec
    exact microEffect_ip_of_not_fetches s (tickFetches_of_cons hq ▸ hfetch)
  · exact absurd (tickFetches_of_nil hq) hfetch

theorem step_ip17_of_fetches {s t : State} (h : step s = .next t) (hfetch : tickFetches s = true) :
    t.ip17 = s.ip17 + 1 := by
  obtain ⟨hin, hip, hovf⟩ := step_ip_of_fetches h hfetch
  rw [State.ip17_congr hip hovf, State.ip17_advanceIp hin]

theorem step_ip17_of_not_fetches {s t : State} (h : step s = .next t) (hfetch : ¬tickFetches s = true) :
    t.ip17 = s.ip17 := by
  obtain ⟨hip, hovf⟩ := step_ip_of_not_fetches h hfetch
  exact State.ip17_congr hip hovf

theorem microFetches_iff {u : MicroOp} :
    microFetches u = true ↔ (∃ r, u = .fetchByte r) ∨ u = .fetchAddrLo ∨ u = .fetchAddrHi := by
  cases u <;> simp [microFetches]

/-- The ticks that fetch: a fetch-decode, and the three micro-ops that fetch (R108, R127). -/
theorem tickFetches_iff {s : State} :
    tickFetches s = true ↔ s.queue = [] ∨
      ∃ u q, s.queue = u :: q ∧ ((∃ r, u = .fetchByte r) ∨ u = .fetchAddrLo ∨ u = .fetchAddrHi) := by
  cases hq : s.queue with
  | nil => simp [tickFetches_of_nil hq]
  | cons u q => simp [tickFetches_of_cons hq, microFetches_iff]

/-- Settles O46: a tick that fetches does so once, and nothing else writes `IP`. -/
theorem ipMovesByOneInFetchingTicksOnly : Obligations.IpMovesByOneInFetchingTicksOnly := by
  intro s t h
  simp only [← tickFetches_iff]
  refine ⟨fun hfetch => ?_, step_ip_of_not_fetches h⟩
  obtain ⟨hin, -, hovf⟩ := step_ip_of_fetches h hfetch
  refine ⟨hin, step_ip17_of_fetches h hfetch, ?_⟩
  rw [hovf, State.advanceIp_ipOvf, beq_iff_eq]

/-! ### The fetch-decode tick -/

/-- Inside memory, a fetch-decode tick runs the instruction that the byte at `IP` decodes to (R105). -/
theorem step_eq_exec {s : State} (hq : s.Boundary) (hin : s.ipOvf = false) :
    step s = exec (decodeOpcode s.cfg (s.mem.read s.ip)) { s with ip := s.ip + 1, ipOvf := s.ip == 0xFFFF } := by
  rw [step_nil hq hin, ← State.advanceIp_eq, exec_eq]

/-- A tick that fetches with `IP_OVF = 1` raises (R191). -/
theorem step_of_overflow {s : State} (hfetch : tickFetches s = true) (hovf : s.ipOvf = true) :
    step s = raiseIpDereference := by
  obtain ⟨t, ht⟩ | ⟨-, -, hraise⟩ := step_answers s
  · obtain ⟨hin, -⟩ := step_ip_of_fetches ht hfetch
    cases hovf.symm.trans hin
  · exact hraise

/-- A tick raises in no other state, and nothing but that fault (R127, R191). -/
theorem step_fault {s : State} {f : Fault} (h : step s = .fault f) :
    tickFetches s = true ∧ s.ipOvf = true ∧ step s = raiseIpDereference := by
  obtain ⟨t, ht⟩ | hraise := step_answers s
  · cases ht.symm.trans h
  · exact hraise

theorem isArch_regSel (r : Reg) : isArch (regSel r) = true := by
  cases r <;> rfl

/-- A transfer writes a general register, so it sets the flags (R103, R189). -/
theorem transfer_eq (f t : Reg) (s : State) :
    transfer f t s =
      { s.writeSel (regSel t) (s.readSel (regSel f)) with flags := s.flags.setZN (s.readSel (regSel f)) } := by
  rw [transfer, State.writeTarget, if_pos (isArch_regSel t), State.setZN, State.writeSel_flags]

theorem State.enqueue_of_boundary {s : State} (hq : s.Boundary) (ops : List MicroOp) :
    s.enqueue ops = { s with queue := ops } := by
  rw [State.enqueue, show s.queue = [] from hq, List.nil_append]

/-- Settles O6: the tick is the handler of the byte at `IP`, which the decoder finds first in any list it answers for. -/
theorem stepRunsTheDecodedInstruction : Obligations.StepRunsTheDecodedInstruction := by
  intro s hq
  refine ⟨fun hin => ⟨step_eq_exec hq hin, fun c bytes rest hdecode => ?_⟩, fun i => ?_,
    fun hin => ⟨?_, tickWrites_of_nil hq⟩, step_of_overflow (tickFetches_of_nil hq)⟩
  · obtain ⟨op, hbytes, hop, -⟩ := decode_eq_ok_iff.mp hdecode
    cases hbytes
    rw [← hop]
    exact step_eq_exec hq hin
  · rw [exec_eq]
    cases i.entry with
    | unmapped => rfl
    | halt => rfl
    | load t m => exact congrArg _ (State.enqueue_of_boundary hq _)
    | store r m => exact congrArg _ (State.enqueue_of_boundary hq _)
    | transfer f t => exact congrArg _ (transfer_eq f t s)
  · rw [tickReads_of_nil hq, fetchReads, hin]
    rfl

/-- Settles O16: the byte 0xFF decodes to `hlt` in every machine. -/
theorem hltSetsHaltedOnly : Obligations.HltSetsHaltedOnly := by
  refine fun s => ⟨rfl, fun hq hin hbyte => ?_, fun hq => step_of_overflow (tickFetches_of_nil hq)⟩
  have hdecode : decodeOpcode s.cfg 0xFF = .hlt := decodeOpcode_encodeOpcode (i := .hlt) rfl
  rw [step_eq_exec hq hin, hbyte, hdecode]
  rfl

/-- Settles O17: a byte that is no mapped opcode decodes to `unmapped`, whose handler does nothing. -/
theorem unmappedOpcodesChangeOnlyIp : Obligations.UnmappedOpcodesChangeOnlyIp := by
  refine ⟨fun _ _ => rfl, fun s hq hin hop => ?_, fun s hq => step_of_overflow (tickFetches_of_nil hq), by decide⟩
  rw [step_eq_exec hq hin, decodeOpcode_of_not_mapped hop]
  rfl

/-! ### What a handler leaves unchanged -/

/-- Only a transfer writes registers or flags (R103). -/
theorem entryAction_registers {e : Entry} (s : State) (h : ∀ f t, e ≠ .transfer f t) :
    (entryAction e s).a = s.a ∧ (entryAction e s).x = s.x ∧ (entryAction e s).y = s.y ∧
    (entryAction e s).flags = s.flags := by
  cases e with
  | transfer f t => exact absurd rfl (h f t)
  | _ => exact ⟨rfl, rfl, rfl, rfl⟩

/-- Only a load or a store enqueues (R103). -/
theorem entryAction_queue_of_not_memory {e : Entry} (s : State) (h : ∀ r m, e ≠ .load r m ∧ e ≠ .store r m) :
    (entryAction e s).queue = s.queue := by
  cases e with
  | load t m => exact absurd rfl (h t m).1
  | store r m => exact absurd rfl (h r m).2
  | transfer f t => exact State.writeTarget_queue ..
  | _ => rfl

/-- Only `hlt` writes `HALTED` (R103, R106). -/
theorem entryAction_halted_of_ne_hlt {i : Instr} (s : State) (h : i ≠ .hlt) :
    (entryAction i.entry s).halted = s.halted := by
  rw [Bool.eq_iff_iff, entryAction_halted, or_iff_left h]

theorem regSel_inj {q r : Reg} : regSel q = regSel r ↔ q = r := by
  cases q <;> cases r <;> simp [regSel]

/-- After a transfer the target reads as the source did, and every other general register as before (R189). -/
theorem readSel_transfer (f t q : Reg) (s : State) :
    (transfer f t s).readSel (regSel q) = if q = t then s.readSel (regSel f) else s.readSel (regSel q) := by
  simp only [transfer, State.readSel_writeTarget, regSel_inj]

/-- Settles O23: each part is the frame of the entry's action. -/
theorem fetchDecodeTickLeavesMemoryAndScratch : Obligations.FetchDecodeTickLeavesMemoryAndScratch := by
  intro i s t h
  obtain rfl : entryAction i.entry s = t := Host.Outcome.next.inj ((exec_eq i s).symm.trans h)
  obtain ⟨hcfg, hsp, hip, hovf, heah, heal, ht0, ht1, hmem⟩ := entryAction_frame i.entry s
  refine ⟨hmem, hsp, hip, hovf, heah, heal, ht0, ht1, hcfg, entryAction_halted_of_ne_hlt s, entryAction_registers s,
    fun f r he => ⟨?_, fun q hqr => ?_, (entryAction_flags i.entry s).unconnected⟩, entryAction_queue_of_not_memory s⟩
  · rw [he, entryAction, readSel_transfer, ite_self]
  · rw [he, entryAction, readSel_transfer, if_neg hqr]

/-! ### The tick with micro-ops queued, and HALTED -/

theorem step_of_nil {s : State} (hq : s.queue = []) : step s = fetchDecode s := by
  simp only [step, tick, hq]

/-- A micro-op that raises makes the tick raise (R104, R194). -/
theorem step_cons_fault {s : State} {u : MicroOp} {q : List MicroOp} {f : Fault} (hq : s.queue = u :: q)
    (h : execute u s = .fault f) : step s = .fault f := by
  simp only [step, tick, hq, executeFront, h]

theorem State.readSel_setHalted (s : State) (h : Bool) (r : Sel) : (s.setHalted h).readSel r = s.readSel r := by
  cases r <;> rfl

theorem State.srcVal_setHalted (s : State) (h : Bool) (src : Src) : (s.setHalted h).srcVal src = s.srcVal src := by
  cases src with
  | const b => rfl
  | reg r => exact s.readSel_setHalted h r

theorem State.writeTarget_setHalted (s : State) (h : Bool) (t : Sel) (v : Byte) :
    (s.setHalted h).writeTarget t v = (s.writeTarget t v).setHalted h := by
  cases t <;> rfl

/-- No micro-op reads or writes `HALTED` (R19, R104). -/
theorem microEffect_setHalted (u : MicroOp) (s : State) (h : Bool) :
    microEffect u (s.setHalted h) = (microEffect u s).setHalted h := by
  cases u with
  | fetchByte t => exact s.advanceIp.writeTarget_setHalted h t _
  | readMem t => exact s.writeTarget_setHalted h t _
  | _ => simp only [microEffect, State.srcVal_setHalted, State.readSel_setHalted]; rfl

/-- No handler reads `HALTED`; the one of `hlt` overwrites it (R103, R106). -/
theorem entryAction_setHalted (e : Entry) (s : State) (h : Bool) :
    ∃ h', entryAction e (s.setHalted h) = (entryAction e s).setHalted h' := by
  cases e with
  | halt => exact ⟨true, rfl⟩
  | transfer f t =>
    refine ⟨h, ?_⟩
    simp only [entryAction, transfer, State.readSel_setHalted]
    exact s.writeTarget_setHalted h (regSel t) _
  | _ => exact ⟨h, rfl⟩

/-- A tick does not read `HALTED`: with another value of it, it answers the same but for `HALTED` (R104, R219). -/
theorem step_setHalted {s t : State} (hstep : step s = .next t) (h : Bool) :
    ∃ h', step (s.setHalted h) = .next (t.setHalted h') := by
  obtain ⟨u, q, t', hq, hexec, rfl⟩ | ⟨hq, hin, rfl⟩ := step_next hstep
  · obtain ⟨hin, rfl⟩ := execute_next_microEffect hexec
    have hexec' : execute u (s.setHalted h) = .next ((microEffect u s).setHalted h) := by
      rw [execute_eq_microEffect (s := s.setHalted h) hin, microEffect_setHalted]
    exact ⟨h, step_cons (s := s.setHalted h) hq hexec'⟩
  · obtain ⟨h', haction⟩ := entryAction_setHalted (decodeOpcode s.cfg (s.mem.read s.ip)).entry s.advanceIp h
    exact ⟨h', (step_nil (s := s.setHalted h) hq hin).trans (congrArg _ haction)⟩

/-- Settles O7: the tick goes by the front of the queue alone, and neither its fetch nor what it runs reads `HALTED`. -/
theorem stepExecutesTheFrontMicroOp : Obligations.StepExecutesTheFrontMicroOp := by
  refine fun s => ⟨fun u q hq => ⟨fun t hexec => ?_, fun f => step_cons_fault hq⟩, step_of_nil, fun h t hstep => ?_,
    fun h f hstep => ?_⟩
  · obtain ⟨-, -, -, hqueue⟩ := execute_frame hexec
    rw [step_cons hq hexec, State.dequeue, hqueue, hq, List.tail_cons]
  · obtain ⟨h', hstep'⟩ := step_setHalted hstep h
    exact ⟨t.setHalted h', hstep', rfl⟩
  · obtain ⟨hfetch, hovf, hraise⟩ := step_fault hstep
    have hraise' : step (s.setHalted h) = raiseIpDereference := step_of_overflow (s := s.setHalted h) hfetch hovf
    exact hraise'.trans (hraise.symm.trans hstep)

/-! ### Every run ends -/

/-- No instruction queues more micro-ops than the queue holds (R24, R230). -/
theorem length_entrySeq_le (e : Entry) : (entrySeq e).length ≤ qDepth := by
  cases e with
  | load t m => cases m <;> simp [entrySeq, loadSeq, addressOps, zeroPageOps, absoluteOps, pointerOps, qDepth]
  | store r m => cases m <;> simp [entrySeq, storeSeq, addressOps, zeroPageOps, absoluteOps, pointerOps, qDepth]
  | _ => exact Nat.zero_le _

/-- The ticks a state has left at most: its queue, and for each byte from `IP` to the top of memory one fetch-decode tick
with the longest sequence (R24, R111). -/
def State.ticksLeft (s : State) : Nat := s.queue.length + (1 + qDepth) * (memSize - s.ip17)

theorem State.ip17_lt {s : State} (hin : s.ipOvf = false) : s.ip17 < memSize := by
  rw [State.ip17_of_inside hin]
  exact s.ip.isLt

theorem step_ip17_le {s t : State} (h : step s = .next t) : s.ip17 ≤ t.ip17 := by
  by_cases hfetch : tickFetches s = true
  · exact (step_ip17_of_fetches h hfetch).symm ▸ Nat.le_succ _
  · exact Nat.le_of_eq (step_ip17_of_not_fetches h hfetch).symm

/-- Each tick takes one from the queue or moves `IP`, which nothing moves back (R109, R228). -/
theorem ticksLeft_step {s t : State} (h : step s = .next t) : t.ticksLeft < s.ticksLeft := by
  have hle := step_ip17_le h
  obtain ⟨u, q, t', hq, hexec, rfl⟩ | ⟨hq, hin, rfl⟩ := step_next h
  · obtain ⟨-, -, -, hqueue⟩ := execute_frame hexec
    simp only [State.ticksLeft, qDepth, State.dequeue_queue, hqueue, hq, List.tail_cons, List.length_cons]
    omega
  · have hip := step_ip17_of_fetches h (tickFetches_of_nil hq)
    have hlt := State.ip17_lt hin
    have hlen := length_entrySeq_le (decodeOpcode s.cfg (s.mem.read s.ip)).entry
    simp only [State.ticksLeft, qDepth, entryAction_queue _ (s := s.advanceIp) hq, hq, List.length_nil] at hlen ⊢
    omega

/-- A run of more ticks than a state has left ends, by induction on the ticks allowed (R111, R220). -/
theorem run_ends {n : Nat} {s : State} (hn : s.ticksLeft < n) :
    (∃ t, run n s = .halted t) ∨ ∃ f t, run n s = .faulted f t := by
  induction n generalizing s with
  | zero => exact absurd hn (Nat.not_lt_zero _)
  | succ n ih =>
    cases hhalted : s.halted with
    | true => exact .inl ⟨s, run_halted _ hhalted⟩
    | false =>
      obtain ⟨t, ht⟩ | ⟨-, -, hraise⟩ := step_answers s
      · have hleft := ticksLeft_step ht
        rw [run_succ n hhalted, ht]
        exact ih (by omega)
      · exact .inr ⟨_, s, by rw [run_succ n hhalted, hraise, raiseIpDereference]⟩

theorem State.ticksLeft_le_of_boundary {s : State} (hq : s.Boundary) : s.ticksLeft ≤ 65536 * 10 := by
  simp only [State.ticksLeft, show s.queue = [] from hq, List.length_nil, qDepth, memSize]
  omega

/-- Settles O53: the ticks left decrease at every tick. -/
theorem everyRunEnds : Obligations.EveryRunEnds :=
  ⟨fun _ _ hn => run_ends hn, fun _ _ hq hn => run_ends (Nat.lt_of_le_of_lt (State.ticksLeft_le_of_boundary hq) hn)⟩

/-! ### A placed instruction -/

/-- A cell below the bytes written keeps its byte. -/
theorem Memory.get_writeBytes_of_lt (m : Memory) {j k : Nat} (bs : List Byte) (hj : j < k) :
    (m.writeBytes k bs).get j = m.get j := by
  induction bs generalizing m k with
  | nil => rfl
  | cons b bs ih =>
    rw [Memory.writeBytes, ih _ (by omega)]
    split
    · rw [Memory.get_put, if_neg (by omega)]
    · rfl

/-- The first of the bytes written at an address is there, whether or not the rest fit inside memory. -/
theorem Memory.read_writeBytes_head (m : Memory) (k : Word) (b : Byte) (bs : List Byte) :
    (m.writeBytes k.toNat (b :: bs)).read k = b := by
  have hk : k.toNat < memSize := k.isLt
  rw [Memory.read, Memory.writeBytes, Memory.get_writeBytes_of_lt _ bs (Nat.lt_succ_self _), if_pos hk, Memory.get_put,
    if_pos rfl]

/-- A table word always has an opcode byte and the operand bytes its instruction needs (R60, R74). -/
theorem decodeTableWord_eq (nbits w : Nat) :
    decodeTableWord nbits w = some (decodeOpcode .base (BitVec.ofNat 8 (w % 2 ^ nbits))) := by
  simp only [decodeTableWord, tableWordBytes]
  rw [decode_cons_of_le (Mode.operandBytes_le_two _)]

/-- Settles O56: the byte at `IP` is the low byte of the word, and the queue is empty. -/
theorem placedInstructionIsTheOneThatRuns : Obligations.PlacedInstructionIsTheOneThatRuns := by
  refine fun s nbits w => ⟨?_, rfl, decodeTableWord_eq nbits w⟩
  have hbyte : (s.withFetchWord nbits w).mem.read s.ip = BitVec.ofNat 8 (w % 2 ^ nbits) :=
    Memory.read_writeBytes_head s.mem s.ip _ _
  rw [← hbyte]
  exact step_eq_exec (s := s.withFetchWord nbits w) rfl rfl

/-! ### An instruction inside memory -/

/-- After the fetch-decode tick an instruction whose operand bytes lie inside memory is ready (R15, R140). -/
theorem State.ready_advanceIp {s : State} {i : Instr} (hq : s.Boundary) (hin : s.ipOvf = false)
    (hfit : s.ip.toNat + i.mode.operandBytes ≤ 0xFFFF) : s.advanceIp.Ready i := by
  refine ⟨hq, .inr ?_⟩
  rw [State.BytesFit, State.ip17_advanceIp hin, State.ip17_of_inside hin, memSize]
  omega

/-- An instruction that is ready after its fetch-decode tick ends, after its number of ticks, in the state of its net
effect (R6, R108, R230). -/
theorem finish_instrTicks {s : State} {i : Instr} (hq : s.Boundary) (hin : s.ipOvf = false)
    (hi : decodeOpcode s.cfg (s.mem.read s.ip) = i) (hready : s.advanceIp.Ready i) :
    finish (instrTicks i) s = .next (netEffect i.entry s.advanceIp) := by
  obtain ⟨t, hexec, hfinish⟩ := hready.completes
  obtain rfl : entryAction i.entry s.advanceIp = t := Host.Outcome.next.inj ((exec_eq i _).symm.trans hexec)
  rw [entryAction_queue i.entry hready.boundary] at hfinish
  rw [instrTicks, Nat.add_comm, finish_succ _ (step_nil hq hin), hi]
  exact hfinish

/-- Settles O57: the instruction ends in the state of its net effect, which leaves the queue empty. -/
theorem instructionInsideMemoryRunsToTheNextBoundary : Obligations.InstructionInsideMemoryRunsToTheNextBoundary := by
  intro s hq hin i hfit
  have hready : s.advanceIp.Ready i := State.ready_advanceIp hq hin hfit
  have hfinish := finish_instrTicks hq hin rfl hready
  refine ⟨⟨_, hfinish⟩, fun u hu => ?_⟩
  obtain rfl : netEffect i.entry s.advanceIp = u := Host.Outcome.next.inj (hfinish.symm.trans hu)
  obtain ⟨-, -, -, hqueue⟩ := netEffect_frame i.entry s.advanceIp
  refine ⟨hqueue.trans hq, ?_⟩
  rw [hready.ip17_netEffect, State.ip17_advanceIp hin, State.ip17_of_inside hin, Instr.length, Nat.add_assoc]

end Sys2Proof.Machine
end

section
/-! PROOFS. The flag engine (42_flag_engine.md): the outcomes of `SetZN`, that `Z` and `N` change together with a general
register and never else, and that a load ends with the flags of its byte whatever they were before. -/

namespace Sys2Proof.Machine

/-! ### SetZN -/

theorem Flags.setZN_z_eq_decide (f : Flags) (v : Byte) : (f.setZN v).z = decide (v.toNat = 0) := by
  rw [Flags.setZN_z, Bool.beq_eq_decide_eq, decide_eq_decide, ← BitVec.toNat_inj]
  rfl

/-- Bit 7 is the most significant bit of a byte (R120). -/
theorem Flags.setZN_n_eq_decide (f : Flags) (v : Byte) : (f.setZN v).n = decide (0x80 ≤ v.toNat) := by
  rw [Flags.setZN_n]
  exact (BitVec.msb_eq_getLsbD_last v).symm.trans (BitVec.msb_eq_decide v)

/-- Settles O36: `Z` and `N` as bounds on the byte, which no byte meets both. -/
theorem setZNOutcomeTable : Obligations.SetZNOutcomeTable := by
  intro v f
  rw [Flags.setZN_z_eq_decide, Flags.setZN_n_eq_decide]
  simp only [decide_eq_true_eq, decide_eq_false_iff_not]
  refine ⟨?_, ?_, ?_, ?_, rfl⟩ <;> omega

/-! ### Registers and flags change together -/

/-- From `s` to `t`, the general registers and the flags are left. -/
def RegistersAndFlagsKept (s t : State) : Prop :=
  t.flags = s.flags ∧ t.a = s.a ∧ t.x = s.x ∧ t.y = s.y

/-- From `s` to `t`, of the general registers `r` alone is written, and the flags are set from its new value (R121). -/
def WroteRegister (r : Reg) (s t : State) : Prop :=
  t.flags = s.flags.setZN (t.readSel (regSel r)) ∧ ∀ q : Reg, q ≠ r → t.readSel (regSel q) = s.readSel (regSel q)

/-- The micro-op is a qualifying operation with target `r` (R121). -/
def MicroOp.WritesRegister (u : MicroOp) (r : Reg) : Prop := u = .fetchByte (regSel r) ∨ u = .readMem (regSel r)

/-- The next tick, if it does not raise, runs a qualifying operation with target `r` (R121). -/
def State.WritesRegisterNext (s : State) (r : Reg) : Prop :=
  (∃ u q, s.queue = u :: q ∧ MicroOp.WritesRegister u r) ∨
  (s.queue = [] ∧ ∃ f, (decodeOpcode s.cfg (s.mem.read s.ip)).entry = .transfer f r)

theorem State.writeTarget_wroteRegister (s : State) (r : Reg) (v : Byte) :
    WroteRegister r s (s.writeTarget (regSel r) v) := by
  refine ⟨?_, fun q hq => ?_⟩
  · rw [State.writeTarget_flags, if_pos (isArch_regSel r), State.readSel_writeTarget, if_pos rfl]
  · rw [State.readSel_writeTarget, if_neg (mt regSel_inj.mp hq)]

/-- A target is a general register or one of the hidden latches (R126). -/
theorem State.writeTarget_cases (s : State) (t : Sel) (v : Byte) :
    RegistersAndFlagsKept s (s.writeTarget t v) ∨ ∃ r, t = regSel r ∧ WroteRegister r s (s.writeTarget t v) := by
  cases t with
  | a => exact .inr ⟨.a, rfl, s.writeTarget_wroteRegister .a v⟩
  | x => exact .inr ⟨.x, rfl, s.writeTarget_wroteRegister .x v⟩
  | y => exact .inr ⟨.y, rfl, s.writeTarget_wroteRegister .y v⟩
  | t0 => exact .inl ⟨rfl, rfl, rfl, rfl⟩
  | t1 => exact .inl ⟨rfl, rfl, rfl, rfl⟩

theorem microEffect_registersAndFlags (u : MicroOp) (s : State) :
    RegistersAndFlagsKept s (microEffect u s) ∨
      ∃ r, MicroOp.WritesRegister u r ∧ WroteRegister r s (microEffect u s) := by
  cases u with
  | fetchByte t =>
    obtain hkept | ⟨r, rfl, hwrote⟩ := s.advanceIp.writeTarget_cases t (s.mem.read s.ip)
    · exact .inl hkept
    · exact .inr ⟨r, .inl rfl, hwrote⟩
  | readMem t =>
    obtain hkept | ⟨r, rfl, hwrote⟩ := s.writeTarget_cases t (s.mem.read s.eap)
    · exact .inl hkept
    · exact .inr ⟨r, .inr rfl, hwrote⟩
  | _ => exact .inl ⟨rfl, rfl, rfl, rfl⟩

theorem entryAction_registersAndFlags (e : Entry) (s : State) :
    RegistersAndFlagsKept s (entryAction e s) ∨
      ∃ f r, e = .transfer f r ∧ WroteRegister r s (entryAction e s) := by
  cases e with
  | transfer f r => exact .inr ⟨f, r, rfl, s.writeTarget_wroteRegister r _⟩
  | _ => exact .inl ⟨rfl, rfl, rfl, rfl⟩

/-- All that a tick can do to the general registers and the flags, and which ticks do it (R121, R123). -/
theorem step_registersAndFlags {s t : State} (h : step s = .next t) :
    RegistersAndFlagsKept s t ∨ ∃ r, s.WritesRegisterNext r ∧ WroteRegister r s t := by
  obtain ⟨u, q, t', hq, hexec, rfl⟩ | ⟨hq, -, rfl⟩ := step_next h
  · obtain ⟨-, rfl⟩ := execute_next_microEffect hexec
    obtain hkept | ⟨r, hu, hwrote⟩ := microEffect_registersAndFlags u s
    · exact .inl hkept
    · exact .inr ⟨r, .inl ⟨u, q, hq, hu⟩, hwrote⟩
  · obtain hkept | ⟨f, r, he, hwrote⟩ :=
      entryAction_registersAndFlags (decodeOpcode s.cfg (s.mem.read s.ip)).entry s.advanceIp
    · exact .inl hkept
    · exact .inr ⟨r, .inr ⟨hq, f, he⟩, hwrote⟩

/-- Settles O37: a tick writes a general register through a qualifying operation only. -/
theorem registerAndFlagsChangeTogether : Obligations.RegisterAndFlagsChangeTogether := by
  intro s t h
  obtain hkept | ⟨r, -, hwrote⟩ := step_registersAndFlags h
  · exact .inl hkept
  · exact .inr ⟨r, hwrote⟩

theorem step_flags_of_not_writesRegisterNext {s t : State} (h : step s = .next t)
    (hs : ∀ r, ¬s.WritesRegisterNext r) : t.flags = s.flags := by
  obtain ⟨hflags, -⟩ | ⟨r, hr, -⟩ := step_registersAndFlags h
  · exact hflags
  · exact absurd hr (hs r)

/-! ### The flags during a load -/

/-- A tick with micro-ops queued takes the front one off (R104). -/
theorem step_queue_of_cons {s t : State} {u : MicroOp} {q : List MicroOp} (hq : s.queue = u :: q)
    (h : step s = .next t) : t.queue = q := by
  obtain ⟨u', q', t', -, hexec, rfl⟩ | ⟨hnil, -, -⟩ := step_next h
  · obtain ⟨-, -, -, hqueue⟩ := execute_frame hexec
    rw [State.dequeue, hqueue, hq, List.tail_cons]
  · cases hq.symm.trans hnil

theorem finish_succ_next {n : Nat} {s u : State} (h : finish (n + 1) s = .next u) :
    ∃ t, step s = .next t ∧ finish n t = .next u := by
  rw [finish] at h
  split at h
  next t hstep => exact ⟨t, hstep, h⟩
  next => cases h
  next => cases h

/-- If of the queue at most the last micro-op writes a general register, the flags stay until that one executes (R121). -/
theorem finish_flags {k : Nat} {s u : State} (h : finish k s = .next u) (hk : k < s.queue.length)
    (hops : ∀ v ∈ s.queue.dropLast, ∀ r, ¬MicroOp.WritesRegister v r) : u.flags = s.flags := by
  induction k generalizing s with
  | zero => cases h; rfl
  | succ k ih =>
    obtain ⟨t, hstep, hfinish⟩ := finish_succ_next h
    match hq : s.queue with
    | [] => simp [hq] at hk
    | [v] => simp [hq] at hk
    | v :: w :: q =>
      have hqueue : t.queue = w :: q := step_queue_of_cons hq hstep
      rw [hq, List.length_cons, Nat.add_lt_add_iff_right, ← hqueue] at hk
      rw [hq, List.dropLast_cons_cons, List.forall_mem_cons, ← hqueue] at hops
      obtain ⟨hfront, hrest⟩ := hops
      rw [ih hfinish hk hrest]
      refine step_flags_of_not_writesRegisterNext hstep fun r hr => ?_
      obtain ⟨v', q', hq', hv'⟩ | ⟨hnil, -⟩ := hr
      · cases hq.symm.trans hq'
        exact hfront r hv'
      · cases hq.symm.trans hnil

/-- The address micro-ops of a mode write no register but the hidden latches (R23, R137). -/
theorem not_writesRegister_of_mem_addressOps {m : Mode} {v : MicroOp} (hv : v ∈ addressOps m) (r : Reg) :
    ¬MicroOp.WritesRegister v r := by
  have hfetch : MicroOp.fetchByte (regSel r) ∉ addressOps m := by cases m <;> cases r <;> decide
  have hread : MicroOp.readMem (regSel r) ∉ addressOps m := by cases m <;> cases r <;> decide
  rintro (rfl | rfl)
  · exact hfetch hv
  · exact hread hv

theorem dropLast_loadSeq (m : Mode) (t : Reg) : (loadSeq m t).dropLast = addressOps m := by
  cases m <;> rfl

/-- Short of its last tick, a load leaves the flags (R121, R122). -/
theorem load_flags_before_last {i : Instr} {t : Reg} {m : Mode} {s s' u : State} {k : Nat} (hi : i.entry = .load t m)
    (hq : s.Boundary) (hexec : exec i s = .next s') (hk : k < s'.queue.length) (hfinish : finish k s' = .next u) :
    u.flags = s.flags := by
  obtain rfl : entryAction i.entry s = s' := Host.Outcome.next.inj ((exec_eq i s).symm.trans hexec)
  have hqueue : (entryAction i.entry s).queue.dropLast = addressOps m := by
    rw [entryAction_queue i.entry hq, hi, entrySeq, dropLast_loadSeq]
  rw [finish_flags hfinish hk fun v hv => not_writesRegister_of_mem_addressOps (hqueue ▸ hv), hi]
  rfl

/-! ### The flags after a load -/

/-- The state with other flags `Z` and `N`. -/
def State.withZN (s : State) (z n : Bool) : State := { s with flags := { s.flags with z := z, n := n } }

theorem AgreeButZN.eq_withZN {s s' : State} (h : AgreeButZN s s') : ∃ z n, s' = s.withZN z n := ⟨_, _, h⟩

section
variable (s : State) (z n : Bool)

theorem State.ea_withZN (m : Mode) : (s.withZN z n).ea m = s.ea m := rfl

theorem State.skip_withZN (k : Nat) : (s.withZN z n).skip k = (s.skip k).withZN z n := by
  induction k generalizing s with
  | zero => rfl
  | succ k ih => exact ih s.advanceIp

/-- The address phase neither reads nor writes a flag (R92). -/
theorem State.resolve_withZN (m : Mode) (ea : Word) : (s.withZN z n).resolve m ea = (s.resolve m ea).withZN z n := by
  cases m <;> rfl

/-- A byte written to a general register overwrites both flags (R122). -/
theorem State.writeTarget_withZN (t : Reg) (v : Byte) :
    (s.withZN z n).writeTarget (regSel t) v = s.writeTarget (regSel t) v := by
  cases t <;> rfl

end

theorem State.Ready.withZN {i : Instr} {s : State} (h : s.Ready i) (z n : Bool) : (s.withZN z n).Ready i :=
  ⟨h.boundary, h.operands⟩

/-- No load has Implied mode (R90). -/
theorem ne_imp_of_load {i : Instr} {t : Reg} {m : Mode} (h : i.entry = .load t m) : m ≠ .imp := by
  rintro rfl
  cases i <;> cases h

/-- Whatever `Z` and `N` were, a load ends by writing one and the same byte to its target in one and the same state (R122). -/
theorem netLoad_withZN {m : Mode} (hm : m ≠ .imp) (t : Reg) (s : State) :
    ∃ s₀ v, ∀ z n, netLoad m t (s.withZN z n) = State.writeTarget s₀ (regSel t) v := by
  cases hea : s.ea m with
  | some ea =>
    refine ⟨s.resolve m ea, s.mem.read ea, fun z n => ?_⟩
    rw [(load_of_ea ((s.ea_withZN z n m).trans hea) t).2, State.resolve_withZN]
    exact State.writeTarget_withZN ..
  | none =>
    cases m with
    | imp => exact absurd rfl hm
    | imm =>
      refine ⟨s.skip 1, s.operand1, fun z n => ?_⟩
      rw [netLoad_imm, State.skip_withZN]
      exact State.writeTarget_withZN ..
    | _ => cases hea

/-- The flags are those of the byte now in the target. -/
theorem State.writeTarget_regSel_zn (s : State) (t : Reg) (v : Byte) :
    (s.writeTarget (regSel t) v).flags.z = ((s.writeTarget (regSel t) v).readSel (regSel t) == 0) ∧
    (s.writeTarget (regSel t) v).flags.n = ((s.writeTarget (regSel t) v).readSel (regSel t)).getLsbD 7 := by
  obtain ⟨hflags, -⟩ := s.writeTarget_wroteRegister t v
  rw [hflags]
  exact ⟨rfl, rfl⟩

/-- A load's end state, the same from every state that differs in `Z` and `N` alone (R122). -/
theorem load_completes_withZN {i : Instr} {t : Reg} {m : Mode} {s : State} (hi : i.entry = .load t m) (h : s.Ready i)
    (z n : Bool) :
    ∃ u, Completes i s u ∧ Completes i (s.withZN z n) u ∧
      u.flags.z = (u.readSel (regSel t) == 0) ∧ u.flags.n = (u.readSel (regSel t)).getLsbD 7 := by
  obtain ⟨s₀, v, hnet⟩ := netLoad_withZN (ne_imp_of_load hi) t s
  have hcompletes (z n : Bool) : Completes i (s.withZN z n) (s₀.writeTarget (regSel t) v) := by
    rw [← hnet z n, show netLoad m t = netEffect i.entry by rw [hi]; rfl]
    exact (h.withZN z n).completes
  exact ⟨_, hcompletes s.flags.z s.flags.n, hcompletes z n, s₀.writeTarget_regSel_zn t v⟩

/-- Settles O25: a load is one write of its byte to its target, in its last tick, and only such a write or a transfer's
sets flags. -/
theorem noStaleFlagSurvivesALoad : Obligations.NoStaleFlagSurvivesALoad := by
  refine ⟨fun i t m s s' hi hready hagree => ?_, fun i t m s s' u k => load_flags_before_last, fun s t h hne => ?_⟩
  · obtain ⟨z, n, rfl⟩ := hagree.eq_withZN
    exact load_completes_withZN hi hready z n
  · obtain ⟨hflags, -⟩ | ⟨r, hr, -⟩ := step_registersAndFlags h
    · exact absurd hflags hne
    · obtain ⟨u, q, hq, rfl | rfl⟩ | ⟨hq, f, he⟩ := hr
      · exact .inl ⟨r, q, .inl hq⟩
      · exact .inl ⟨r, q, .inr hq⟩
      · exact .inr ⟨hq, f, r, he⟩

end Sys2Proof.Machine
end

section
/-! PROOFS. The micro-ops (43_microops.md): what each of the nine answers, that every tick keeps the invariant, the store
sequences, the cells a load's ticks read, and that the ticks of a load are the load as one step. -/

namespace Sys2Proof.Machine

/-! ### The invariant -/

theorem microEffect_memWf {s : State} (u : MicroOp) (h : s.mem.wf = true) : (microEffect u s).mem.wf = true := by
  cases u with
  | fetchByte t => exact (congrArg Memory.wf (State.writeTarget_mem ..)).trans h
  | readMem t => exact (congrArg Memory.wf (State.writeTarget_mem ..)).trans h
  | writeMem r => exact Memory.wf_write s.eap _ h
  | _ => exact h

/-- A tick keeps memory in canonical form: a store does, and nothing else writes memory (R40, R42). -/
theorem step_memWf {s t : State} (h : step s = .next t) (hmem : s.mem.wf = true) : t.mem.wf = true := by
  obtain ⟨u, q, t', -, hexec, rfl⟩ | ⟨-, -, rfl⟩ := step_next h
  · obtain ⟨-, rfl⟩ := execute_next_microEffect hexec
    exact microEffect_memWf u hmem
  · obtain ⟨-, -, -, -, -, -, -, -, hkept⟩ := entryAction_frame (decodeOpcode s.cfg (s.mem.read s.ip)).entry s.advanceIp
    exact (congrArg Memory.wf hkept).trans hmem

theorem State.OvfOk.congr {s t : State} (h : s.OvfOk) (hip : t.ip = s.ip) (hovf : t.ipOvf = s.ipOvf) : t.OvfOk := by
  rw [State.OvfOk, hip, hovf]
  exact h

/-- A tick leaves `IP` and `IP_OVF`, or advances them (R15, R101). -/
theorem step_ovfOk {s t : State} (h : step s = .next t) (hs : s.OvfOk) : t.OvfOk := by
  by_cases hfetch : tickFetches s = true
  · obtain ⟨-, hip, hovf⟩ := step_ip_of_fetches h hfetch
    exact s.ovfOk_advanceIp.congr hip hovf
  · obtain ⟨hip, hovf⟩ := step_ip_of_not_fetches h hfetch
    exact hs.congr hip hovf

/-- A tick takes the front micro-op off the queue, or fills an empty queue with the sequence of an instruction that exists
in the machine (R104, R105, R125). -/
theorem step_queueOk {s t : State} (h : step s = .next t) (hs : s.QueueOk) : t.QueueOk := by
  obtain ⟨hcfg, -⟩ := step_cfg_sp h
  rw [State.QueueOk, hcfg]
  cases hq : s.queue with
  | nil =>
    obtain ⟨u, q, t', hcons, -⟩ | ⟨-, -, rfl⟩ := step_next h
    · cases hq.symm.trans hcons
    · rw [entryAction_queue _ (s := s.advanceIp) hq]
      exact ⟨_, decodeOpcode_wf s.cfg _, List.suffix_rfl⟩
  | cons u q =>
    obtain ⟨i, hwf, hsuffix⟩ := hs
    rw [hq] at hsuffix
    rw [step_queue_of_cons hq h]
    exact ⟨i, hwf, (List.suffix_cons u q).trans hsuffix⟩

theorem State.QueueOk.length_le {s : State} (h : s.QueueOk) : s.queue.length ≤ qDepth := by
  obtain ⟨i, -, hsuffix⟩ := h
  exact Nat.le_trans hsuffix.length_le (length_entrySeq_le i.entry)

/-- Settles O41: each part of the invariant is kept by both kinds of tick, and a suffix of a sequence is as short. -/
theorem everyStepKeepsTheInvariant : Obligations.EveryStepKeepsTheInvariant := by
  intro s t hs h
  have hqueue : t.QueueOk := step_queueOk h hs.queueOk
  exact ⟨⟨step_memWf h hs.memWf, step_ovfOk h hs.ovfOk, hqueue⟩, hqueue.length_le⟩

/-! ### The micro-ops one by one -/

theorem execute_of_overflow {u : MicroOp} {s : State} (hu : microFetches u = true) (hovf : s.ipOvf = true) :
    execute u s = raiseIpDereference := by
  obtain ⟨t, ht⟩ | ⟨-, -, hraise⟩ := execute_answers u s
  · obtain ⟨hin, -⟩ := execute_next_microEffect ht
    cases hovf.symm.trans (hin hu)
  · exact hraise

/-- Settles O27: inside memory a fetching micro-op has its effect, and past the top of memory the fetch raises. -/
theorem fetchMicroOpsFollowTheirRules : Obligations.FetchMicroOpsFollowTheirRules := by
  refine fun s => ⟨fun hin => ?_, fun hovf r =>
    ⟨execute_of_overflow rfl hovf, execute_of_overflow rfl hovf, execute_of_overflow rfl hovf⟩⟩
  simp only [execute_eq_microEffect fun _ => hin, microEffect, State.advanceIp_eq]
  exact ⟨rfl, rfl, rfl, rfl, rfl, rfl, rfl⟩

/-- The addition of bytes is the addition of numbers modulo 256 (R9). -/
theorem byte_add_eq_ofNat (v w : Byte) : v + w = BitVec.ofNat 8 ((v.toNat + w.toNat) % 256) := by
  apply BitVec.eq_of_toNat_eq
  simp

/-- Settles O28: none of the four fetches, so each has its effect in every state. -/
theorem addressMicroOpsFollowTheirRules : Obligations.AddressMicroOpsFollowTheirRules := by
  intro s src v hv
  obtain rfl : s.srcVal src = v := by
    rw [hv]
    cases src with
    | const b => rfl
    | reg r => cases r <;> rfl
  simp only [← byte_add_eq_ofNat]
  exact ⟨rfl, rfl, rfl, rfl⟩

theorem State.eap_eq_of_toNat {s : State} {ea : Word} (h : ea.toNat = s.eah.toNat * 256 + s.eal.toNat) : s.eap = ea :=
  BitVec.eq_of_toNat_eq ((wordOf_toNat s.eah s.eal).trans h.symm)

/-- Settles O29: neither fetches, and the address they use is the number with the bytes `EAH` and `EAL`. -/
theorem memoryMicroOpsFollowTheirRules : Obligations.MemoryMicroOpsFollowTheirRules := by
  intro s ea h
  obtain rfl : s.eap = ea := State.eap_eq_of_toNat h
  exact ⟨⟨rfl, rfl, rfl, rfl, rfl⟩, rfl, rfl, rfl, rfl, rfl⟩

/-! ### The store sequences -/

/-- Where there is an operand in memory, a load and a store are the address micro-ops of the mode and one access (R137,
R138). -/
theorem sequences_eq_append {m : Mode} (himp : m ≠ .imp) (himm : m ≠ .imm) (r t : Reg) :
    loadSeq m t = addressOps m ++ [.readMem (regSel t)] ∧ storeSeq m r = addressOps m ++ [.writeMem (regSel r)] := by
  cases m with
  | imp => exact absurd rfl himp
  | imm => exact absurd rfl himm
  | _ => exact ⟨rfl, rfl⟩

/-- No store has Immediate or Implied mode (R67). -/
theorem ne_imm_imp_of_store {i : Instr} {r : Reg} {m : Mode} (h : i.entry = .store r m) : m ≠ .imm ∧ m ≠ .imp := by
  constructor
  · rintro rfl
    cases i <;> cases h
  · rintro rfl
    cases i <;> cases h

/-- Settles O31: the two sequences have their address micro-ops in common. -/
theorem storeSequencesReplaceTheLastMicroOp : Obligations.StoreSequencesReplaceTheLastMicroOp := by
  refine ⟨fun m r t himp himm => ?_, fun i r m => ne_imm_imp_of_store⟩
  obtain ⟨hload, hstore⟩ := sequences_eq_append himp himm r t
  exact ⟨addressOps m, hload, hstore, by simp [hload, hstore]⟩

/-! ### The cells a list of micro-ops reads -/

/-- The cells that micro-ops executed in order read, when none of them raises (R46). -/
def readsOfOps : List MicroOp → State → List Word
  | [], _       => []
  | u :: ops, s => microReads u s ++ readsOfOps ops (microEffect u s)

theorem readsOfOps_append (ops ops' : List MicroOp) (s : State) :
    readsOfOps (ops ++ ops') s = readsOfOps ops s ++ readsOfOps ops' (runOps ops s) := by
  induction ops generalizing s with
  | nil => rfl
  | cons u ops ih => rw [List.cons_append, readsOfOps, readsOfOps, ih, runOps_cons, List.append_assoc]

theorem microReads_withQueue (u : MicroOp) (s : State) (q : List MicroOp) :
    microReads u (s.withQueue q) = microReads u s := by
  cases u <;> rfl

theorem readLog_succ {s t : State} (n : Nat) (h : step s = .next t) : readLog (n + 1) s = tickReads s ++ readLog n t := by
  rw [readLog, h]

/-- The ticks of a queue read the cells that its micro-ops read in order (R46, R104). -/
theorem readLog_withQueue {ops : List MicroOp} {s : State} (h : OpsFit ops s) :
    readLog ops.length (s.withQueue ops) = readsOfOps ops s := by
  induction ops generalizing s with
  | nil => rfl
  | cons u ops ih =>
    have hexec : execute u (s.withQueue (u :: ops)) = .next ((microEffect u s).withQueue (u :: ops)) := by
      rw [execute_eq_microEffect (s := s.withQueue (u :: ops)) h.head, microEffect_withQueue]
    have hstep : step (s.withQueue (u :: ops)) = .next ((microEffect u s).withQueue ops) := step_cons rfl hexec
    rw [List.length_cons, readLog_succ _ hstep, tickReads_of_cons rfl, microReads_withQueue, ih h.tail, readsOfOps]

/-! ### The cells a load reads -/

theorem fetchCount_loadSeq (m : Mode) (t : Reg) : fetchCount (loadSeq m t) = m.operandBytes := by
  cases m <;> rfl

/-- A load queued at a boundary, its operand bytes inside memory, reads what its micro-ops read. -/
theorem readLog_loadSeq {s : State} {m : Mode} (hq : s.Boundary) (hfit : s.BytesFit m.operandBytes) (t : Reg) :
    readLog (loadSeq m t).length (s.enqueue (loadSeq m t)) = readsOfOps (loadSeq m t) s := by
  have hops : OpsFit (loadSeq m t) s := .inr ((fetchCount_loadSeq m t).symm ▸ hfit)
  rw [State.enqueue_of_boundary hq]
  exact readLog_withQueue hops

/-- The cells of the operand bytes of a mode, the first at `IP` (R44, R60). -/
def State.operandCells (s : State) (m : Mode) : List Word := [s.ip, s.ip + 1].take m.operandBytes

/-- The cells of the pointer that an indirect mode reads, both in the zero page (R88, R89). -/
def State.pointerCells (s : State) (m : Mode) : List Word :=
  match pointerAddress m s.operand1 s.x with
  | some ptr => [wordOf 0x00 ptr, wordOf 0x00 (ptr + 1)]
  | none     => []

theorem fetchReads_of_inside {s : State} (h : s.ipOvf = false) : fetchReads s = [s.ip] := by
  rw [fetchReads, h]
  rfl

theorem readsOfOps_zeroPageOps {s : State} (h : s.BytesFit 1) : readsOfOps zeroPageOps s = [s.ip] := by
  simp [zeroPageOps, readsOfOps, microReads, fetchReads_of_inside h.ipOvf]

theorem readsOfOps_absoluteOps {s : State} (h : s.BytesFit 2) : readsOfOps absoluteOps s = [s.ip, s.ip + 1] := by
  have hsecond : fetchReads (s.advanceIp.setEal (s.mem.read s.ip)) = [s.ip + 1] := by
    rw [← State.advanceIp_ip]
    exact fetchReads_of_inside h.advance.ipOvf
  simp [absoluteOps, readsOfOps, microReads, microEffect, fetchReads_of_inside h.ipOvf, hsecond]

theorem readsOfOps_pointerOps (s : State) (ptr : Byte) :
    readsOfOps pointerOps ((s.setEah 0#8).setEal ptr) = [wordOf 0x00 ptr, wordOf 0x00 (ptr + 1)] := rfl

/-- The address phase of a mode reads its operand bytes and then its pointer (R137). -/
theorem readsOfOps_addressOps {m : Mode} {s : State} {ea : Word} (hfit : s.BytesFit m.operandBytes)
    (hea : s.ea m = some ea) : readsOfOps (addressOps m) s = s.operandCells m ++ s.pointerCells m := by
  cases m with
  | imp | imm => cases hea
  | abs | abx | aby =>
    simp [addressOps, readsOfOps_append, readsOfOps_absoluteOps hfit, State.operandCells, State.pointerCells,
      pointerAddress, Mode.operandBytes, readsOfOps, microReads]
  | zp | zpx | zpy | izx | izy =>
    simp [addressOps, readsOfOps_append, readsOfOps_zeroPageOps hfit, readsOfOps_pointerOps, runOps_zeroPageOps,
      State.operandCells, State.pointerCells, pointerAddress, Mode.operandBytes, readsOfOps, microReads, microEffect,
      State.srcVal, State.readSel]

/-- The ticks of a load read its operand bytes, its pointer, and the byte at its effective address, in order (R137). -/
theorem readLog_load {m : Mode} {s : State} {ea : Word} (hq : s.Boundary) (hfit : s.BytesFit m.operandBytes)
    (hea : s.ea m = some ea) (t : Reg) :
    readLog (loadSeq m t).length (s.enqueue (loadSeq m t)) = s.operandCells m ++ s.pointerCells m ++ [ea] := by
  have hlast : readsOfOps [.readMem (regSel t)] (s.resolve m ea) = [ea] := by
    rw [readsOfOps, microReads, State.resolve_eap]
    rfl
  rw [readLog_loadSeq hq hfit, (load_of_ea hea t).1, readsOfOps_append, readsOfOps_addressOps hfit hea,
    runOps_addressOps hea, hlast]

/-- An Immediate load reads its operand byte and no other (R137). -/
theorem readLog_load_imm {s : State} (hq : s.Boundary) (hfit : s.BytesFit 1) (t : Reg) :
    readLog (loadSeq .imm t).length (s.enqueue (loadSeq .imm t)) = [s.ip] := by
  rw [readLog_loadSeq (m := .imm) hq hfit, ← fetchReads_of_inside hfit.ipOvf]
  exact List.append_nil _

/-- Settles O30: the three parts of what a load reads, written out for each mode. -/
theorem loadSequencesReadTheirCellsInOrder : Obligations.LoadSequencesReadTheirCellsInOrder := by
  intro s t hq
  exact ⟨fun hfit => ⟨readLog_load_imm hq hfit t, readLog_load (m := .zp) hq hfit rfl t,
      readLog_load (m := .zpx) hq hfit rfl t, readLog_load (m := .zpy) hq hfit rfl t,
      readLog_load (m := .izx) hq hfit rfl t, readLog_load (m := .izy) hq hfit rfl t⟩,
    fun hfit => ⟨readLog_load (m := .abs) hq hfit rfl t, readLog_load (m := .abx) hq hfit rfl t,
      readLog_load (m := .aby) hq hfit rfl t⟩⟩

/-! ### A load as one step -/

/-- The byte that a load of mode `m` writes and the address it leaves in `EAP`: the operand byte and no new address in
Immediate, else the byte at the effective address and that address (R140, R168). -/
def LoadSource (m : Mode) (s : State) (v : Byte) (eap : Word) : Prop :=
  if m = .imm then v = s.operand1 ∧ eap = s.eap
  else ∃ ea, s.ea m = some ea ∧ v = s.mem.read ea ∧ eap = ea

theorem loadSource_imm (s : State) : LoadSource .imm s s.operand1 s.eap := ⟨rfl, rfl⟩

theorem loadSource_of_ea {m : Mode} {s : State} {ea : Word} (hea : s.ea m = some ea) :
    LoadSource m s (s.mem.read ea) ea := by
  rw [LoadSource, if_neg (by rintro rfl; cases hea)]
  exact ⟨ea, hea, rfl, rfl⟩

/-- `u` is a state in which a load of mode `m` from `s` has written the byte `v` to `t` (R168). -/
structure LoadsByte (m : Mode) (t : Reg) (s u : State) (v : Byte) : Prop where
  source    : LoadSource m s v u.eap
  registers : ∀ r : Reg, u.readSel (regSel r) = if r = t then v else s.readSel (regSel r)
  flags     : u.flags = s.flags.setZN v
  mem       : u.mem = s.mem

theorem State.writeTarget_eap (s : State) (t : Sel) (v : Byte) : (s.writeTarget t v).eap = s.eap := by
  rw [State.eap, State.eap, State.writeTarget_eah, State.writeTarget_eal]

/-- The last micro-op of a load writes the byte, after an address phase that left registers, flags and memory. -/
theorem loadsByte_writeTarget {m : Mode} {s s' : State} {v : Byte} (hsource : LoadSource m s v s'.eap)
    (hregisters : ∀ r : Reg, s'.readSel (regSel r) = s.readSel (regSel r)) (hflags : s'.flags = s.flags)
    (hmem : s'.mem = s.mem) (t : Reg) : LoadsByte m t s (s'.writeTarget (regSel t) v) v where
  source := by rwa [State.writeTarget_eap]
  registers r := by simp only [State.readSel_writeTarget, regSel_inj, hregisters]
  flags := by rw [State.writeTarget_flags, if_pos (isArch_regSel t), hflags]
  mem := by rw [State.writeTarget_mem, hmem]

theorem State.readSel_skip (s : State) (n : Nat) (r : Sel) : (s.skip n).readSel r = s.readSel r := by
  cases r <;> simp [State.readSel]

theorem State.resolve_flags (s : State) (m : Mode) (ea : Word) : (s.resolve m ea).flags = s.flags := by
  cases m <;> rfl

/-- A load as one step writes one byte to its target (R168). -/
theorem netLoad_loadsByte {m : Mode} (hm : m ≠ .imp) (t : Reg) (s : State) :
    ∃ v, LoadsByte m t s (netLoad m t s) v := by
  cases hea : s.ea m with
  | some ea =>
    have hsource : LoadSource m s (s.mem.read ea) (s.resolve m ea).eap := by
      rw [State.resolve_eap]
      exact loadSource_of_ea hea
    rw [(load_of_ea hea t).2]
    exact ⟨_, loadsByte_writeTarget hsource (s.readSel_resolve m ea) (s.resolve_flags m ea) (s.resolve_mem m ea) t⟩
  | none =>
    cases m with
    | imp => exact absurd rfl hm
    | imm =>
      exact ⟨_, loadsByte_writeTarget (s' := s.skip 1) (loadSource_imm s) (fun r => s.readSel_skip 1 (regSel r)) rfl rfl t⟩
    | _ => cases hea

/-- `IP_OVF = 1` is the 17-bit number 0x10000, as long as no byte past the top has been fetched (R15). -/
theorem State.ipOvf_iff {s : State} (h : s.ip17 ≤ memSize) : s.ipOvf = true ↔ s.ip17 = memSize := by
  cases hovf : s.ipOvf with
  | false => exact iff_of_false Bool.false_ne_true (Nat.ne_of_lt (State.ip17_lt hovf))
  | true =>
    simp only [State.ip17, hovf, if_true, true_iff] at h ⊢
    omega

theorem State.operand2_advanceIp (s : State) : s.advanceIp.operand2 = s.mem.read (s.ip + 2) := by
  rw [State.operand2, State.advanceIp_ip, State.advanceIp_mem, BitVec.add_assoc]
  rfl

theorem State.ea_advanceIp (s : State) (m : Mode) :
    s.advanceIp.ea m = effectiveAddress m (s.mem.read (s.ip + 1)) (s.mem.read (s.ip + 2)) s.x s.y s.mem := by
  rw [State.ea, State.operand1, State.operand2_advanceIp, State.advanceIp_ip]
  rfl

/-- From a boundary, a load whose bytes lie inside memory ends, after its number of ticks, in the state of its net effect
with `IP` past its bytes (R140). -/
theorem finish_load {s : State} {t : Reg} {m : Mode} (hq : s.Boundary) (hin : s.ipOvf = false)
    (hi : (decodeOpcode s.cfg (s.mem.read s.ip)).entry = .load t m) (hfit : s.ip.toNat + m.operandBytes ≤ 0xFFFF) :
    finish (1 + (loadSeq m t).length) s = .next (netLoad m t s.advanceIp) ∧
    (netLoad m t s.advanceIp).ip17 = s.ip.toNat + 1 + m.operandBytes := by
  have hmode : (decodeOpcode s.cfg (s.mem.read s.ip)).mode = m := congrArg Entry.mode hi
  have hready := State.ready_advanceIp hq hin (hmode.symm ▸ hfit)
  have hfinish := finish_instrTicks hq hin rfl hready
  have hip := hready.ip17_netEffect
  rw [instrTicks, hi] at hfinish
  rw [hi, hmode, State.ip17_advanceIp hin, State.ip17_of_inside hin] at hip
  exact ⟨hfinish, hip⟩

/-- Settles O18: the load ends in the state of its net effect, which is one byte written to its target. -/
theorem loadTicksGiveTheNetResult : Obligations.LoadTicksGiveTheNetResult := by
  intro s t m hq hin hi hfit
  obtain ⟨hfinish, hip⟩ := finish_load hq hin hi hfit
  obtain ⟨v, hsource, hregisters, hflags, hmem⟩ := netLoad_loadsByte (ne_imp_of_load hi) t s.advanceIp
  obtain ⟨hcfg, hsp, hhalted, hqueue⟩ := netEffect_frame (.load t m) s.advanceIp
  have hovf := State.ipOvf_iff (s := netLoad m t s.advanceIp) (by rw [hip, memSize]; omega)
  rw [hip] at hovf
  rw [LoadSource, State.operand1, State.advanceIp_ip, State.ea_advanceIp] at hsource
  refine ⟨netLoad m t s.advanceIp, v, hfinish, hsource, (hregisters t).trans (if_pos rfl), ?_⟩
  rw [hflags]
  exact ⟨rfl, rfl, hip, hovf, hqueue.trans hq, fun r hr => (hregisters r).trans (if_neg hr), hsp, rfl, rfl, rfl, rfl,
    rfl, rfl, hhalted, hcfg, hmem⟩

end Sys2Proof.Machine
end

section
/-! PROOFS. The loads (44_load.md): each opcode's rule, that a load whose operand bytes run past the top of memory faults in
that fetch, and what a load that completes leaves unchanged. -/

namespace Sys2Proof.Machine

/-! ### The address phase, element by element -/

theorem State.skip_one (s : State) : s.skip 1 = { s with ip := s.ip + 1, ipOvf := s.ip == 0xFFFF } := s.advanceIp_eq

/-- The second of two bytes is the one at 0xFFFF exactly when the first is the one at 0xFFFE (R15, R101). -/
theorem State.skip_two (s : State) : s.skip 2 = { s with ip := s.ip + 2, ipOvf := s.ip == 0xFFFE } := by
  have hip : s.ip + 1 + 1 = s.ip + 2 := BitVec.add_assoc ..
  have hovf : (s.ip + 1 == 0xFFFF) = (s.ip == 0xFFFE) := by
    rw [Bool.eq_iff_iff, beq_iff_eq, beq_iff_eq]
    exact BitVec.eq_sub_iff_add_eq.symm
  rw [State.skip, State.skip_one, State.advanceIp_eq, hip, hovf]

section
variable {s : State} {m : Mode} {hi lo : Byte}

/-- The zero-page modes consume one operand byte and have no pointer (R82 to R84). -/
theorem State.resolve_of_one_byte (hbytes : m.operandBytes = 1) (hptr : pointerAddress m s.operand1 s.x = none) :
    s.resolve m (wordOf hi lo) = { s with eah := hi, eal := lo, ip := s.ip + 1, ipOvf := s.ip == 0xFFFF } := by
  rw [State.resolve, hbytes, hptr, State.skip_one, highByte_wordOf, lowByte_wordOf]
  rfl

/-- The absolute modes consume two (R85 to R87). -/
theorem State.resolve_of_two_bytes (hbytes : m.operandBytes = 2) (hptr : pointerAddress m s.operand1 s.x = none) :
    s.resolve m (wordOf hi lo) = { s with eah := hi, eal := lo, ip := s.ip + 2, ipOvf := s.ip == 0xFFFE } := by
  rw [State.resolve, hbytes, hptr, State.skip_two, highByte_wordOf, lowByte_wordOf]
  rfl

/-- The indirect modes consume one and leave their pointer in `T0` and `T1` (R88, R89, R23). -/
theorem State.resolve_of_pointer {ptr : Byte} (hbytes : m.operandBytes = 1)
    (hptr : pointerAddress m s.operand1 s.x = some ptr) :
    s.resolve m (wordOf hi lo) =
      { s with eah := hi, eal := lo, t0 := pointerLo s.mem ptr, t1 := pointerHi s.mem ptr, ip := s.ip + 1,
               ipOvf := s.ip == 0xFFFF } := by
  rw [State.resolve, hbytes, hptr, State.skip_one, highByte_wordOf, lowByte_wordOf]
  rfl

end

/-! ### The rule of an opcode -/

/-- An instruction whose handler enqueues follows its opcode's rule, with the state of its net effect (R103, R140). -/
theorem opcodeRule_of_enqueue {i : Instr} {net : State → State}
    (henqueue : ∀ s, entryAction i.entry s = s.enqueue (entrySeq i.entry)) (hnet : ∀ s, netEffect i.entry s = net s) :
    OpcodeRule i (encodeOpcode i) (entrySeq i.entry) net where
  encoding := ⟨rfl, fun _ => decodeOpcode_encodeOpcode⟩
  tickOne s hq := by rw [exec_eq, henqueue, State.enqueue_of_boundary hq]
  completes s h := hnet s ▸ h.completes

/-- A load with its operand in memory writes the byte at its address, after its address phase (R168). -/
theorem netLoad_of_resolve {m : Mode} {s s' : State} {ea : Word} (hea : s.ea m = some ea) (hresolve : s.resolve m ea = s')
    (t : Reg) : netLoad m t s = s'.writeTarget (regSel t) (s.mem.read ea) := by
  rw [(load_of_ea hea t).2, hresolve]

/-- A load in Immediate mode consumes the operand byte and writes it (R81, R168). -/
theorem netLoad_imm_eq (t : Reg) (s : State) :
    netLoad .imm t s = State.writeTarget { s with ip := s.ip + 1, ipOvf := s.ip == 0xFFFF } (regSel t) s.operand1 := by
  rw [netLoad_imm, State.skip_one]

theorem opcodeRule_of_load (i : Instr) {t : Reg} {m : Mode} {net : State → State} (hi : i.entry = .load t m)
    (hnet : ∀ s, netLoad m t s = net s) : OpcodeRule i (encodeOpcode i) (entrySeq i.entry) net := by
  refine opcodeRule_of_enqueue (fun s => ?_) fun s => ?_
  · rw [hi]
    rfl
  · rw [hi]
    exact hnet s

/-- Settles O10: A is written last, with the byte of the mode, in the state its address phase leaves. -/
theorem ldaOpcodesLoadA : Obligations.LdaOpcodesLoadA :=
  ⟨opcodeRule_of_load .ldaImm rfl (netLoad_imm_eq .a),
    opcodeRule_of_load .ldaZp rfl fun _ => netLoad_of_resolve rfl (State.resolve_of_one_byte rfl rfl) .a,
    opcodeRule_of_load .ldaZpx rfl fun _ => netLoad_of_resolve rfl (State.resolve_of_one_byte rfl rfl) .a,
    opcodeRule_of_load .ldaAbs rfl fun _ => netLoad_of_resolve rfl (State.resolve_of_two_bytes rfl rfl) .a,
    opcodeRule_of_load .ldaAbx rfl fun _ => netLoad_of_resolve rfl (State.resolve_of_two_bytes rfl rfl) .a,
    opcodeRule_of_load .ldaAby rfl fun _ => netLoad_of_resolve rfl (State.resolve_of_two_bytes rfl rfl) .a,
    opcodeRule_of_load .ldaIzx rfl fun _ => netLoad_of_resolve rfl (State.resolve_of_pointer rfl rfl) .a,
    opcodeRule_of_load .ldaIzy rfl fun _ => netLoad_of_resolve rfl (State.resolve_of_pointer rfl rfl) .a⟩

/-- Settles O11: X is written last, after an address phase that is indexed by Y or not at all. -/
theorem ldxOpcodesLoadX : Obligations.LdxOpcodesLoadX :=
  ⟨opcodeRule_of_load .ldxImm rfl (netLoad_imm_eq .x),
    opcodeRule_of_load .ldxZp rfl fun _ => netLoad_of_resolve rfl (State.resolve_of_one_byte rfl rfl) .x,
    opcodeRule_of_load .ldxZpy rfl fun _ => netLoad_of_resolve rfl (State.resolve_of_one_byte rfl rfl) .x,
    opcodeRule_of_load .ldxAbs rfl fun _ => netLoad_of_resolve rfl (State.resolve_of_two_bytes rfl rfl) .x,
    opcodeRule_of_load .ldxAby rfl fun _ => netLoad_of_resolve rfl (State.resolve_of_two_bytes rfl rfl) .x⟩

/-- Settles O12: Y is written last, after an address phase that is indexed by X or not at all. -/
theorem ldyOpcodesLoadY : Obligations.LdyOpcodesLoadY :=
  ⟨opcodeRule_of_load .ldyImm rfl (netLoad_imm_eq .y),
    opcodeRule_of_load .ldyZp rfl fun _ => netLoad_of_resolve rfl (State.resolve_of_one_byte rfl rfl) .y,
    opcodeRule_of_load .ldyZpx rfl fun _ => netLoad_of_resolve rfl (State.resolve_of_one_byte rfl rfl) .y,
    opcodeRule_of_load .ldyAbs rfl fun _ => netLoad_of_resolve rfl (State.resolve_of_two_bytes rfl rfl) .y,
    opcodeRule_of_load .ldyAbx rfl fun _ => netLoad_of_resolve rfl (State.resolve_of_two_bytes rfl rfl) .y⟩

/-! ### An operand fetch past the top of memory -/

/-- The state in which the first `k` of the micro-ops `ops`, queued in `s`, have executed. -/
def State.afterOps (s : State) (ops : List MicroOp) (k : Nat) : State :=
  (runOps (ops.take k) s).withQueue (ops.drop k)

theorem OpsFit.cons {u : MicroOp} {ops : List MicroOp} {s : State} (hin : microFetches u = true → s.ipOvf = false)
    (h : OpsFit ops (microEffect u s)) : OpsFit (u :: ops) s := by
  by_cases hu : microFetches u = true
  · have hip := microEffect_ip17_of_fetches hu (hin hu)
    have hlt := State.ip17_lt (hin hu)
    simp only [OpsFit, State.BytesFit, fetchCount_cons_of_fetches ops hu] at h ⊢
    omega
  · have hip := microEffect_ip17_of_not_fetches (s := s) hu
    simp only [OpsFit, State.BytesFit, fetchCount_cons_of_not_fetches ops hu] at h ⊢
    omega

/-- Micro-ops that fetch a byte past the top of memory execute up to that fetch, whose tick raises (R191, R194). -/
theorem exists_raising_tick {ops : List MicroOp} {s : State} (h : ¬OpsFit ops s) :
    ∃ k < ops.length, finish k (s.withQueue ops) = .next (s.afterOps ops k) ∧
      step (s.afterOps ops k) = raiseIpDereference := by
  induction ops generalizing s with
  | nil => exact absurd (.inl rfl) h
  | cons u ops ih =>
    by_cases hraise : microFetches u = true ∧ s.ipOvf = true
    · obtain ⟨hu, hovf⟩ := hraise
      exact ⟨0, Nat.succ_pos _, rfl, step_of_overflow ((tickFetches_of_cons rfl).trans hu) hovf⟩
    · have hin : microFetches u = true → s.ipOvf = false := by simpa using hraise
      have hexec : execute u (s.withQueue (u :: ops)) = .next ((microEffect u s).withQueue (u :: ops)) := by
        rw [execute_eq_microEffect (s := s.withQueue (u :: ops)) hin, microEffect_withQueue]
      obtain ⟨k, hk, hfinish, hstep⟩ := ih fun htail => h (htail.cons hin)
      exact ⟨k + 1, Nat.succ_lt_succ hk, (finish_cons k rfl hexec).trans hfinish, hstep⟩

theorem microEffect_mem {u : MicroOp} (s : State) (hu : ∀ r, u ≠ .writeMem r) : (microEffect u s).mem = s.mem := by
  cases u with
  | fetchByte t => exact State.writeTarget_mem ..
  | readMem t => exact State.writeTarget_mem ..
  | writeMem r => exact absurd rfl (hu r)
  | _ => rfl

theorem ne_writeMem_of_mem_addressOps {m : Mode} {v : MicroOp} (hv : v ∈ addressOps m) (r : Sel) : v ≠ .writeMem r := by
  rintro rfl
  rw [← dropLast_loadSeq m .a] at hv
  exact writeMem_not_mem_loadSeq r m .a (List.dropLast_subset _ hv)

theorem RegistersAndFlagsKept.trans {s t u : State} (h : RegistersAndFlagsKept s t) (h' : RegistersAndFlagsKept t u) :
    RegistersAndFlagsKept s u := by
  obtain ⟨hflags, ha, hx, hy⟩ := h
  obtain ⟨hflags', ha', hx', hy'⟩ := h'
  exact ⟨hflags'.trans hflags, ha'.trans ha, hx'.trans hx, hy'.trans hy⟩

/-- Address micro-ops leave the general registers, the flags and memory (R92, R137). -/
theorem runOps_kept_of_subset_addressOps {ops : List MicroOp} {m : Mode} (hops : ops ⊆ addressOps m) (s : State) :
    RegistersAndFlagsKept s (runOps ops s) ∧ (runOps ops s).mem = s.mem := by
  induction ops generalizing s with
  | nil => exact ⟨⟨rfl, rfl, rfl, rfl⟩, rfl⟩
  | cons u ops ih =>
    obtain ⟨hu, hrest⟩ := List.cons_subset.mp hops
    obtain ⟨hkept, hmem⟩ := ih hrest (microEffect u s)
    have hmem' : (microEffect u s).mem = s.mem := microEffect_mem s (ne_writeMem_of_mem_addressOps hu)
    obtain hkept' | ⟨r, hr, -⟩ := microEffect_registersAndFlags u s
    · exact ⟨hkept'.trans hkept, hmem.trans hmem'⟩
    · exact absurd hr (not_writesRegister_of_mem_addressOps hu r)

/-- Short of its last micro-op, a sequence has executed address micro-ops only, so general registers, flags and memory are
those before it (R137, R138). -/
theorem State.afterOps_kept {ops : List MicroOp} {m : Mode} {k : Nat} (hops : ops.dropLast = addressOps m)
    (hk : k < ops.length) (s : State) :
    RegistersAndFlagsKept s (s.afterOps ops k) ∧ (s.afterOps ops k).mem = s.mem := by
  have htake : ops.take k = (addressOps m).take k := by
    rw [← hops, List.dropLast_eq_take, List.take_take, Nat.min_eq_left (Nat.le_sub_one_of_lt hk)]
  exact runOps_kept_of_subset_addressOps (htake ▸ List.take_subset k (addressOps m)) s

theorem opsFit_entrySeq_iff {i : Instr} {s : State} :
    OpsFit (entrySeq i.entry) (entryAction i.entry s) ↔ i.mode.operandBytes = 0 ∨ s.BytesFit i.mode.operandBytes := by
  rw [OpsFit, State.BytesFit, State.BytesFit, entryAction_ip17, fetchCount_entrySeq]

/-- Only Implied mode has no operand byte (R61). -/
theorem Mode.operandBytes_ne_zero {m : Mode} (hm : m ≠ .imp) : m.operandBytes ≠ 0 := by
  cases m with
  | imp => exact absurd rfl hm
  | _ => exact Nat.succ_ne_zero _

/-- Settles O24: the tick that raises is at most the sequence's last, and before it there are address micro-ops only. -/
theorem operandFetchPastTheTopFaults : Obligations.OperandFetchPastTheTopFaults := by
  intro i t m s hi hq hfit
  have hops : ¬OpsFit (loadSeq m t) s := by
    rw [OpsFit, fetchCount_loadSeq]
    exact not_or_intro (Mode.operandBytes_ne_zero (ne_imp_of_load hi)) hfit
  obtain ⟨k, hk, hfinish, hraise⟩ := exists_raising_tick hops
  obtain ⟨⟨hflags, ha, hx, hy⟩, hmem⟩ := State.afterOps_kept (dropLast_loadSeq m t) hk s
  obtain ⟨-, hsp, hhalted, -⟩ := runOps_frame ((loadSeq m t).take k) s
  refine ⟨s.withQueue (loadSeq m t), k, _, ?_, hk, hfinish, hraise, rfl, ha, hx, hy, hflags, hsp, hhalted, hmem⟩
  rw [exec_eq, hi]
  exact congrArg _ (State.enqueue_of_boundary hq _)

/-! ### What a completed load leaves unchanged -/

/-- No row of ticks goes on past one that raises (R194). -/
theorem finish_ne_next_of_raise {k n : Nat} {s u : State} (hfinish : finish k s = .next u)
    (hraise : step u = raiseIpDereference) (hk : k < n) (v : State) : finish n s ≠ .next v := by
  intro h
  have hrest : finish (n - k - 1 + 1) u = .next v := by
    rw [Nat.sub_add_cancel (Nat.sub_pos_of_lt hk)]
    exact finish_suffix hfinish h (Nat.le_of_lt hk)
  obtain ⟨t, hstep, -⟩ := finish_succ_next hrest
  cases hraise.symm.trans hstep

/-- An instruction that completes from a boundary was ready: it did not fetch past the top of memory (R140, R169). -/
theorem Completes.ready {i : Instr} {s u : State} (h : Completes i s u) (hq : s.Boundary) : s.Ready i := by
  refine ⟨hq, opsFit_entrySeq_iff.mp (Classical.byContradiction fun hops => ?_)⟩
  obtain ⟨s', hexec, hcompletes⟩ := h
  obtain rfl : entryAction i.entry s = s' := Host.Outcome.next.inj ((exec_eq i s).symm.trans hexec)
  obtain ⟨k, hk, hfinish, hraise⟩ := exists_raising_tick hops
  have hqueue := entryAction_queue i.entry hq
  rw [State.withQueue_self hqueue] at hfinish
  rw [hqueue] at hcompletes
  exact finish_ne_next_of_raise hfinish hraise hk u hcompletes

/-- It completes in the state of its net effect (R6, R140). -/
theorem Completes.eq_netEffect {i : Instr} {s u : State} (h : Completes i s u) (hq : s.Boundary) :
    u = netEffect i.entry s :=
  h.unique (h.ready hq).completes

/-- Settles O21: the load ends in the state of its net effect, which is one byte written to its target. -/
theorem loadsLeaveEverythingElse : Obligations.LoadsLeaveEverythingElse := by
  intro i t m s u hi hq hcompletes
  obtain rfl : u = netLoad m t s := (hcompletes.eq_netEffect hq).trans (by rw [hi]; rfl)
  obtain ⟨hcfg, hsp, hhalted, hqueue⟩ := netEffect_frame (.load t m) s
  obtain ⟨v, -, hregisters, hflags, hmem⟩ := netLoad_loadsByte (ne_imp_of_load hi) t s
  rw [hflags, hmem]
  exact ⟨fun r hr => (hregisters r).trans (if_neg hr), hsp, hhalted, hcfg, rfl, rfl, rfl, rfl, rfl, rfl,
    hqueue.trans hq, fun _ => rfl⟩

end Sys2Proof.Machine
end

section
/-! PROOFS. The stores and the transfers (45_ext_store_transfer.md): each opcode's rule, what a store writes and what it
leaves unchanged, and that a store whose operand bytes run past the top of memory stores nothing. -/

namespace Sys2Proof.Machine

/-! ### The rule of an opcode -/

/-- A store writes its register to the byte at its address, after its address phase (R188). -/
theorem netStore_of_resolve {m : Mode} {s s' : State} {ea : Word} (hea : s.ea m = some ea) (hresolve : s.resolve m ea = s')
    (r : Reg) : netStore m r s = s'.store ea (s.readSel (regSel r)) := by
  rw [(store_of_ea hea r).2, hresolve]

theorem opcodeRule_of_store (i : Instr) {r : Reg} {m : Mode} {net : State → State} (hi : i.entry = .store r m)
    (hnet : ∀ s, netStore m r s = net s) : OpcodeRule i (encodeOpcode i) (entrySeq i.entry) net := by
  refine opcodeRule_of_enqueue (fun s => ?_) fun s => ?_
  · rw [hi]
    rfl
  · rw [hi]
    exact hnet s

/-- Settles O13: A is stored last, at the address of the mode, in the state its address phase leaves. -/
theorem staOpcodesStoreA : Obligations.StaOpcodesStoreA :=
  ⟨opcodeRule_of_store .staZp rfl fun _ => netStore_of_resolve rfl (State.resolve_of_one_byte rfl rfl) .a,
    opcodeRule_of_store .staZpx rfl fun _ => netStore_of_resolve rfl (State.resolve_of_one_byte rfl rfl) .a,
    opcodeRule_of_store .staAbs rfl fun _ => netStore_of_resolve rfl (State.resolve_of_two_bytes rfl rfl) .a,
    opcodeRule_of_store .staAbx rfl fun _ => netStore_of_resolve rfl (State.resolve_of_two_bytes rfl rfl) .a,
    opcodeRule_of_store .staAby rfl fun _ => netStore_of_resolve rfl (State.resolve_of_two_bytes rfl rfl) .a,
    opcodeRule_of_store .staIzx rfl fun _ => netStore_of_resolve rfl (State.resolve_of_pointer rfl rfl) .a,
    opcodeRule_of_store .staIzy rfl fun _ => netStore_of_resolve rfl (State.resolve_of_pointer rfl rfl) .a⟩

/-- Settles O14: X and Y are stored last, after an address phase that is indexed by the other of the two or not at all. -/
theorem stxAndStyOpcodesStoreTheirRegister : Obligations.StxAndStyOpcodesStoreTheirRegister :=
  ⟨opcodeRule_of_store .stxZp rfl fun _ => netStore_of_resolve rfl (State.resolve_of_one_byte rfl rfl) .x,
    opcodeRule_of_store .stxZpy rfl fun _ => netStore_of_resolve rfl (State.resolve_of_one_byte rfl rfl) .x,
    opcodeRule_of_store .stxAbs rfl fun _ => netStore_of_resolve rfl (State.resolve_of_two_bytes rfl rfl) .x,
    opcodeRule_of_store .styZp rfl fun _ => netStore_of_resolve rfl (State.resolve_of_one_byte rfl rfl) .y,
    opcodeRule_of_store .styZpx rfl fun _ => netStore_of_resolve rfl (State.resolve_of_one_byte rfl rfl) .y,
    opcodeRule_of_store .styAbs rfl fun _ => netStore_of_resolve rfl (State.resolve_of_two_bytes rfl rfl) .y⟩

/-! ### The transfers -/

/-- At a boundary the opcode byte of a transfer runs the transfer where the machine has them, and is a no-op of one byte
where it has not (R67, R170). -/
theorem step_of_mem_transferRows {s : State} {row : Byte × Instr} (hrow : row ∈ transferRows) (hq : s.Boundary)
    (hin : s.ipOvf = false) (hbyte : s.mem.read s.ip = row.1) :
    (s.cfg.extTransfer = true → step s = exec row.2 { s with ip := s.ip + 1, ipOvf := s.ip == 0xFFFF }) ∧
    (s.cfg.extTransfer = false → step s = .next { s with ip := s.ip + 1, ipOvf := s.ip == 0xFFFF }) := by
  rw [step_eq_exec hq hin, hbyte]
  refine ⟨fun hext => ?_, fun hext => ?_⟩
  · rw [decodeOpcode_of_mem_tableRows (transferRows_subset hext hrow)]
  · rw [decodeOpcode_of_not_mapped (not_mem_mappedOpcodes_of_mem_transferRows hext row hrow)]
    rfl

/-- Settles O15: the handler of a transfer is one write to its target, and its opcode byte stands in the transfers' rows. -/
theorem transfersCopyOneRegister : Obligations.TransfersCopyOneRegister := fun _ =>
  ⟨rfl, step_of_mem_transferRows (row := (0xAA, .tax)) (by decide),
    rfl, step_of_mem_transferRows (row := (0xA8, .tay)) (by decide),
    rfl, step_of_mem_transferRows (row := (0x8A, .txa)) (by decide),
    rfl, step_of_mem_transferRows (row := (0x98, .tya)) (by decide)⟩

/-! ### A store as one step -/

/-- Every mode that a store has resolves to an address (R67, R94). -/
theorem exists_ea_of_store {i : Instr} {r : Reg} {m : Mode} (hi : i.entry = .store r m) (s : State) :
    ∃ ea, s.ea m = some ea := by
  obtain ⟨himm, himp⟩ := ne_imm_imp_of_store hi
  cases m with
  | imm => exact absurd rfl himm
  | imp => exact absurd rfl himp
  | _ => exact ⟨_, rfl⟩

theorem State.resolve_kept (s : State) (m : Mode) (ea : Word) : RegistersAndFlagsKept s (s.resolve m ea) :=
  ⟨s.resolve_flags m ea, s.readSel_resolve m ea .a, s.readSel_resolve m ea .x, s.readSel_resolve m ea .y⟩

/-- A store as one step writes its register at its address, and no register and no flag (R188). -/
theorem netStore_storesByte {m : Mode} {s : State} {ea : Word} (hea : s.ea m = some ea) (r : Reg) :
    (netStore m r s).mem = s.mem.write ea (s.readSel (regSel r)) ∧ RegistersAndFlagsKept s (netStore m r s) := by
  rw [(store_of_ea hea r).2, State.store_mem, State.resolve_mem]
  exact ⟨rfl, s.resolve_kept m ea⟩

/-! ### A store whose operand bytes do not fit -/

/-- Such a store raises in one of its fetches, before which it has executed address micro-ops only (R138, R191, R194). -/
theorem exists_raising_tick_of_store {i : Instr} {r : Reg} {m : Mode} {s : State} (hi : i.entry = .store r m)
    (hfit : ¬s.BytesFit m.operandBytes) :
    ∃ k u, k < (storeSeq m r).length ∧ finish k (s.withQueue (storeSeq m r)) = .next u ∧ step u = raiseIpDereference ∧
      RegistersAndFlagsKept s u ∧ u.mem = s.mem := by
  obtain ⟨himm, himp⟩ := ne_imm_imp_of_store hi
  have hseq : storeSeq m r = addressOps m ++ [.writeMem (regSel r)] := (sequences_eq_append himp himm r r).2
  have hcount : fetchCount (storeSeq m r) = m.operandBytes := by
    have hentry := fetchCount_entrySeq i
    rwa [Instr.mode, hi] at hentry
  have hops : ¬OpsFit (storeSeq m r) s := by
    rw [OpsFit, hcount]
    exact not_or_intro (Mode.operandBytes_ne_zero himp) hfit
  obtain ⟨k, hk, hfinish, hraise⟩ := exists_raising_tick hops
  have hdrop : (storeSeq m r).dropLast = addressOps m := by
    rw [hseq, List.dropLast_concat]
  exact ⟨k, _, hk, hfinish, hraise, State.afterOps_kept hdrop hk s⟩

/-! ### The statements about all stores -/

/-- Settles O20: a store that fits ends in the state of its net effect, which is one byte written at its address; one that
does not raises in its address phase, which writes nothing. -/
theorem storesWriteOneByte : Obligations.StoresWriteOneByte := by
  intro i r m s hi hq
  refine ⟨fun hfit => ?_, fun hfit => ?_⟩
  · have hmode : i.mode = m := congrArg Entry.mode hi
    have hready : s.Ready i := ⟨hq, .inr (hmode.symm ▸ hfit)⟩
    have hcompletes := hready.completes
    have hip := hready.ip17_netEffect
    rw [hi] at hcompletes hip
    rw [hmode] at hip
    obtain ⟨ea, hea⟩ := exists_ea_of_store hi s
    obtain ⟨hmem, hflags, ha, hx, hy⟩ := netStore_storesByte hea r
    obtain ⟨hcfg, hsp, hhalted, hqueue⟩ := netEffect_frame (.store r m) s
    exact ⟨ea, netStore m r s, hea, hcompletes, hmem, hip, hqueue.trans hq, ha, hx, hy, hsp, hflags, hhalted, hcfg⟩
  · obtain ⟨k, u, hk, hfinish, hraise, ⟨hflags, ha, hx, hy⟩, hmem⟩ := exists_raising_tick_of_store hi hfit
    refine ⟨s.withQueue (storeSeq m r), k, u, ?_, hk, hfinish, hraise, hmem, ha, hx, hy, hflags⟩
    rw [exec_eq, hi]
    exact congrArg _ (State.enqueue_of_boundary hq _)

/-- Settles O22: the store ends in the state of its net effect, which writes memory at its address alone. -/
theorem storesLeaveEverythingElse : Obligations.StoresLeaveEverythingElse := by
  intro i r m s u hi hq hcompletes
  obtain rfl : u = netStore m r s := (hcompletes.eq_netEffect hq).trans (by rw [hi]; rfl)
  obtain ⟨ea, hea⟩ := exists_ea_of_store hi s
  obtain ⟨hmem, hflags, ha, hx, hy⟩ := netStore_storesByte hea r
  obtain ⟨hcfg, hsp, hhalted, hqueue⟩ := netEffect_frame (.store r m) s
  refine ⟨Option.isSome_of_eq_some hea, fun ea' hea' k hk => ?_, ha, hx, hy, hsp, hhalted, hflags, hcfg, hqueue.trans hq⟩
  obtain rfl : ea = ea' := Option.some.inj (hea.symm.trans hea')
  rw [hmem, Memory.read_write, if_neg hk]

end Sys2Proof.Machine
end

section
/-! PROOFS. The exceptions (60_exceptions.md): the one fault a tick raises and when, and that the host's `reset()` is the only
way on after it. -/

namespace Sys2Proof.Machine

/-! ### The one fault -/

/-- Whether a tick raises, and what, is a matter of `IP_OVF` and of whether it fetches (R127, R191, R197). -/
theorem step_eq_fault_iff {s : State} {f : Fault} :
    step s = .fault f ↔
      s.ipOvf = true ∧ f = .outOfRangeAccess .ipDereference 0x10000 ∧ tickFetches s = true := by
  constructor
  · intro h
    obtain ⟨hfetch, hovf, hraise⟩ := step_fault h
    exact ⟨hovf, Host.Outcome.fault.inj (h.symm.trans hraise), hfetch⟩
  · rintro ⟨hovf, rfl, hfetch⟩
    exact step_of_overflow hfetch hovf

/-- Settles O8: a tick answers a next state, or fetches with `IP_OVF = 1` and raises. -/
theorem stepFaultsExactlyPastTheTop : Obligations.StepFaultsExactlyPastTheTop := by
  intro s
  simp only [← tickFetches_iff]
  refine ⟨fun f => step_eq_fault_iff, fun hnot => ?_, fun r hrefused => ?_⟩
  · obtain hnext | ⟨-, -, hraise⟩ := step_answers s
    · exact hnext
    · exact absurd ⟨_, hraise⟩ hnot
  · obtain ⟨t, hnext⟩ | ⟨-, -, hraise⟩ := step_answers s
    · cases hrefused.symm.trans hnext
    · cases hrefused.symm.trans hraise

/-! ### The way on after a fault -/

/-- Whether a tick fetches is read off the queue (R108(b)). -/
theorem tickFetches_congr {s t : State} (hq : t.queue = s.queue) : tickFetches t = tickFetches s := by
  rw [tickFetches, tickFetches, hq]

/-- A state with the same queue and the same `IP_OVF` raises the same fault (R191). -/
theorem step_fault_congr {s t : State} {f : Fault} (hq : t.queue = s.queue) (hovf : t.ipOvf = s.ipOvf)
    (h : step s = .fault f) : step t = .fault f := by
  rw [step_eq_fault_iff] at h ⊢
  rwa [hovf, tickFetches_congr hq]

/-- Settles O9: `reset()` clears `IP_OVF` and the queue; a launch precondition and an accepted load keep both. -/
theorem resetGetsAFaultedCoreGoing : Obligations.ResetGetsAFaultedCoreGoing := by
  refine fun s => ⟨rfl, rfl, rfl, rfl, rfl, rfl, rfl, rfl, rfl, rfl, ⟨_, step_nil (s := hostReset s) rfl rfl⟩,
    fun f hfault => ⟨fun w => ?_, fun bytes t hload => ?_⟩⟩
  · obtain ⟨-, -, hovf, -, -, -, -, -, hqueue⟩ := hostWrite_frame w s
    exact step_fault_congr hqueue hovf hfault
  · obtain ⟨-, -, rfl⟩ := loadProgram_next hload
    exact step_fault_congr (s := s) rfl rfl hfault

end Sys2Proof.Machine
end

section
/-! PROOFS. Reset, the host's operations and timing (70_reset_and_hazards.md): the ticks of each instruction, what `reset()`,
`load_program` and the launch preconditions keep, what a load and the boot sequence leave in memory, how a run ends, and
that `reset()` abandons the instruction in progress. -/

namespace Sys2Proof.Machine

/-! ### The ticks of an instruction -/

/-- Settles O32: the sequences number at most nine micro-ops, and the table's ticks are read off the sequence of each
instruction. -/
theorem tickCountsOfEachKind : Obligations.TickCountsOfEachKind := by
  refine fun i => ⟨Nat.add_le_add_left (length_entrySeq_le i.entry) 1, ?_⟩
  cases i <;> rfl

/-! ### reset() -/

/-- Settles O50: `reset()` is this update, and the vector it reads is in memory, which it leaves. -/
theorem resetLoadsTheVector : Obligations.ResetLoadsTheVector :=
  fun _ => ⟨rfl, rfl⟩

/-- `reset()` with `load_program`'s vector in memory goes to the origin (R216, R217). -/
theorem hostReset_ip_of_vector {s : State} (hlo : s.mem.read 0xFFFC = 0x00) (hhi : s.mem.read 0xFFFD = 0x80) :
    (hostReset s).ip = 0x8000 := by
  have hip : (hostReset s).ip = wordOf (s.mem.read 0xFFFD) (s.mem.read 0xFFFC) := rfl
  rw [hip, hlo, hhi]
  rfl

/-- The first tick after a `reset()` to the origin runs the byte there (R105, R221). -/
theorem step_hostReset_of_ip {s : State} (hip : (hostReset s).ip = 0x8000) :
    step (hostReset s) = exec (decodeOpcode s.cfg (s.mem.read 0x8000)) { hostReset s with ip := 0x8001 } := by
  rw [step_eq_exec (s := hostReset s) rfl rfl, hip]
  rfl

/-! ### The invariant -/

/-- A queue that belongs to an instruction of the machine does so in any state of that machine. -/
theorem State.QueueOk.congr {s t : State} (h : s.QueueOk) (hcfg : t.cfg = s.cfg) (hqueue : t.queue = s.queue) :
    t.QueueOk := by
  rw [State.QueueOk, hcfg, hqueue]
  exact h

/-- A precondition writes memory through a store, if at all (R223(b)). -/
theorem hostWrite_memWf {s : State} (w : HostWrite) (h : s.mem.wf = true) : (hostWrite w s).mem.wf = true := by
  cases w with
  | reg r v => exact (congrArg Memory.wf (State.writeSel_mem ..)).trans h
  | cell addr v => exact Memory.wf_write addr v h
  | _ => exact h

/-- Settles O42: `reset()` empties the queue and clears `IP_OVF`; the other two write no part of the state that the
invariant speaks of but memory. -/
theorem hostOperationsKeepTheInvariant : Obligations.HostOperationsKeepTheInvariant := by
  refine fun s hs => ⟨State.inv_of_boundary hs.memWf rfl rfl, rfl, fun bytes t hload => ?_, fun w => ?_⟩
  · obtain ⟨-, -, rfl⟩ := loadProgram_next hload
    exact ⟨Memory.wf_loadImage bytes hs.memWf, hs.ovfOk, hs.queueOk⟩
  · obtain ⟨hcfg, hip, hovf, -, -, -, -, -, hqueue⟩ := hostWrite_frame w s
    exact ⟨hostWrite_memWf w hs.memWf, hs.ovfOk.congr hip hovf, hs.queueOk.congr hcfg hqueue⟩

/-! ### load_program -/

/-- A program that is too long is refused, whatever the state between instructions (R193, R216). -/
theorem loadProgram_of_too_long {bytes : List Byte} {s : State} (hq : s.queue = []) (h : maxProgramLen < bytes.length) :
    loadProgram bytes s = .fault (.programTooLarge bytes.length) := by
  simp [loadProgram, hq, h]

section
variable (m : Memory) {bytes : List Byte} (hlen : bytes.length ≤ maxProgramLen)
include hlen

theorem Memory.read_loadImage_vectorLo : (m.loadImage bytes).read 0xFFFC = 0x00 := by
  rw [Memory.read_loadImage m hlen, if_neg (by decide), if_pos rfl]

theorem Memory.read_loadImage_vectorHi : (m.loadImage bytes).read 0xFFFD = 0x80 := by
  rw [Memory.read_loadImage m hlen, if_pos rfl]

/-- A byte of the program is in its cell, but for the two that the vector overwrites (R48, R216). -/
theorem Memory.read_loadImage_program {a : Word} (hlo : a ≠ 0xFFFC) (hhi : a ≠ 0xFFFD) {i : Nat} (hi : i < bytes.length)
    (ha : a.toNat = 0x8000 + i) : (m.loadImage bytes).read a = bytes[i] := by
  have hin : 0x8000 ≤ a.toNat ∧ a.toNat < 0x8000 + bytes.length := by omega
  rw [Memory.read_loadImage m hlen, if_neg hhi, if_neg hlo, if_pos hin, ha, Nat.add_sub_cancel_left,
    List.getD_eq_getElem _ _ hi]

/-- A cell outside the program and the vector reads as before (R216). -/
theorem Memory.read_loadImage_outside {a : Word} (hlo : a ≠ 0xFFFC) (hhi : a ≠ 0xFFFD)
    (ha : ¬∃ i, i < bytes.length ∧ a.toNat = 0x8000 + i) : (m.loadImage bytes).read a = m.read a := by
  have hout : ¬(0x8000 ≤ a.toNat ∧ a.toNat < 0x8000 + bytes.length) := fun hin =>
    ha ⟨a.toNat - 0x8000, by omega, by omega⟩
  rw [Memory.read_loadImage m hlen, if_neg hhi, if_neg hlo, if_neg hout]

end

/-- Settles O48: an accepted load is the image in memory, whose cells are the vector's, the program's, or as before. -/
theorem loadProgramWritesImageAndVector : Obligations.LoadProgramWritesImageAndVector := by
  refine fun s bytes hq => ⟨fun hlen => ?_, loadProgram_of_too_long hq⟩
  exact ⟨_, loadProgram_of_fits hq hlen, rfl, Memory.read_loadImage_vectorLo s.mem hlen,
    Memory.read_loadImage_vectorHi s.mem hlen, fun a hlo hhi =>
      ⟨fun i hi => Memory.read_loadImage_program s.mem hlen hlo hhi hi, Memory.read_loadImage_outside s.mem hlen hlo hhi⟩⟩

/-- Settles O49: a program of that length ends below the vector, and `reset()` writes no memory. -/
theorem loadedImageSurvivesReset : Obligations.LoadedImageSurvivesReset := by
  intro s t bytes hshort hload
  obtain ⟨-, hlen, rfl⟩ := loadProgram_next hload
  refine ⟨fun i hi => ?_, hostReset_ip_of_vector (Memory.read_loadImage_vectorLo s.mem hlen)
    (Memory.read_loadImage_vectorHi s.mem hlen), fun _ => rfl⟩
  have ha : (BitVec.ofNat 16 (0x8000 + i)).toNat = 0x8000 + i := by
    rw [BitVec.toNat_ofNat, Nat.mod_eq_of_lt (by omega)]
  have hlo : BitVec.ofNat 16 (0x8000 + i) ≠ 0xFFFC := by bv_omega
  have hhi : BitVec.ofNat 16 (0x8000 + i) ≠ 0xFFFD := by bv_omega
  exact and_self_iff.mpr (Memory.read_loadImage_program s.mem hlen hlo hhi hi ha)

/-! ### The boot sequence -/

/-- The core of the boot sequence before its `reset()`: the program loaded, the preconditions set (R221). -/
def State.launched (cfg : Config) (v : Init) (program : List Byte) (pre : List HostWrite) : State :=
  hostWrites pre { State.powerOn cfg v with mem := Memory.loadImage [] program }

theorem boot_eq (cfg : Config) (v : Init) {program : List Byte} (pre : List HostWrite)
    (hlen : program.length ≤ maxProgramLen) :
    boot cfg v program pre = .next (hostReset (State.launched cfg v program pre)) := by
  rw [boot, loadProgram_of_fits rfl hlen]
  rfl

/-- A cell that no precondition sets holds what the load left in it (R221). -/
theorem State.read_launched (cfg : Config) (v : Init) (program : List Byte) {pre : List HostWrite} {k : Word}
    (hpre : ∀ w ∈ pre, ∀ u, w ≠ .cell k u) :
    (State.launched cfg v program pre).mem.read k = (Memory.loadImage [] program).read k :=
  hostWrites_read pre _ k hpre

/-- Settles O52: the preconditions leave the vector, so `reset()` goes to the origin, and the first tick runs the byte
there. -/
theorem bootReachesTheProgram : Obligations.BootReachesTheProgram := by
  intro cfg v program pre hlen hpre
  have hlo := (State.read_launched cfg v program fun w hw u => (hpre w hw u).1).trans
    (Memory.read_loadImage_vectorLo [] hlen)
  have hhi := (State.read_launched cfg v program fun w hw u => (hpre w hw u).2).trans
    (Memory.read_loadImage_vectorHi [] hlen)
  have hip := hostReset_ip_of_vector hlo hhi
  have hcfg : (State.launched cfg v program pre).cfg = cfg := hostWrites_cfg pre _
  have hstep := step_hostReset_of_ip hip
  rw [hcfg] at hstep
  refine ⟨_, boot_eq cfg v pre hlen, hip, rfl, rfl, rfl, hcfg, hstep, ?_⟩
  rintro b bs rfl hcell
  have hbyte : (State.launched cfg v (b :: bs) pre).mem.read 0x8000 = b :=
    (State.read_launched cfg v _ hcell).trans
      (Memory.read_loadImage_program [] hlen (by decide) (by decide) (i := 0) (Nat.succ_pos _) rfl)
  rw [hbyte] at hstep
  exact ⟨hbyte, hstep⟩

/-! ### How a run ends -/

/-- With no tick allowed a run that has not halted is unfinished (log entry 9). -/
theorem run_zero {s : State} (hs : s.halted = false) : run 0 s = .unfinished s := by
  simp [run, hs]

/-- The tick that sets `HALTED` leaves the queue empty and `IP` just past the byte 0xFF (R106, R111(a)). -/
theorem step_halts {s t : State} (h : step s = .next t) (hs : s.halted = false) (ht : t.halted = true) :
    t.queue = [] ∧ t.mem.read (t.ip - 1) = 0xFF := by
  obtain ⟨-, hhalts⟩ := onlyHltHalts s t h
  obtain ⟨hq, hq', hbyte⟩ := hhalts hs ht
  obtain ⟨-, hip, -⟩ := step_ip_of_fetches h (tickFetches_of_nil hq)
  obtain ⟨u, q, t', hcons, -⟩ | ⟨-, -, rfl⟩ := step_next h
  · cases hq.symm.trans hcons
  · obtain ⟨-, -, -, -, -, -, -, -, hmem⟩ :=
      entryAction_frame (decodeOpcode s.cfg (s.mem.read s.ip)).entry s.advanceIp
    rw [hmem, hip, State.advanceIp_ip, BitVec.add_sub_cancel]
    exact ⟨hq', hbyte⟩

/-- A run that halts took a tick that set `HALTED`, by induction on the ticks allowed (R111(a), R220). -/
theorem run_eq_halted {n : Nat} {s t : State} (hs : s.halted = false) (h : run n s = .halted t) :
    t.halted = true ∧ t.queue = [] ∧ t.mem.read (t.ip - 1) = 0xFF := by
  induction n generalizing s with
  | zero => cases (run_zero hs).symm.trans h
  | succ n ih =>
    rw [run_succ n hs] at h
    split at h
    next s' hstep =>
      cases hs' : s'.halted with
      | false => exact ih hs' h
      | true =>
        rw [run_halted n hs'] at h
        cases h
        exact ⟨hs', step_halts hstep hs hs'⟩
    next => cases h
    next => cases h

/-- A run that faults ends in the state before a tick that raises, whose `HALTED` it has tested (R111(b), R194, R220). -/
theorem run_eq_faulted {n : Nat} {s t : State} {f : Fault} (h : run n s = .faulted f t) :
    step t = .fault f ∧ t.halted = false := by
  induction n generalizing s with
  | zero =>
    rw [run] at h
    split at h <;> cases h
  | succ n ih =>
    cases hs : s.halted with
    | true => cases (run_halted (n + 1) hs).symm.trans h
    | false =>
      rw [run_succ n hs] at h
      split at h
      next s' hstep => exact ih h
      next f' hstep => cases h; exact ⟨hstep, hs⟩
      next => cases h

/-- Settles O54: one turn of the loop tests `HALTED` and takes a tick, and a tick raises the one fault only. -/
theorem runOutcomes : Obligations.RunOutcomes := by
  refine fun s n => ⟨run_halted n, fun hs => ⟨run_zero hs, fun t hstep => ?_, fun f hstep => ?_,
    fun t => run_eq_halted hs, fun f t h => ?_⟩⟩
  · rw [run_succ n hs, hstep]
  · rw [run_succ n hs, hstep]
  · obtain ⟨hfault, ht⟩ := run_eq_faulted h
    obtain ⟨-, hf, -⟩ := step_eq_fault_iff.mp hfault
    exact ⟨hfault, hf, ht⟩

/-! ### reset() in the middle of an instruction -/

/-- Short of its last micro-op, every sequence is the address phase of its mode (R137, R138). -/
theorem dropLast_entrySeq (e : Entry) : (entrySeq e).dropLast = addressOps e.mode := by
  cases e with
  | load t m => exact dropLast_loadSeq m t
  | store r m => cases m <;> rfl
  | _ => rfl

/-- If no micro-op of a list raises, none of its first ones does. -/
theorem OpsFit.take {ops : List MicroOp} {s : State} (h : OpsFit ops s) (k : Nat) : OpsFit (ops.take k) s := by
  have hle : fetchCount (ops.take k) ≤ fetchCount ops := (List.take_sublist k ops).countP_le
  simp only [OpsFit, State.BytesFit] at h ⊢
  omega

/-- As many ticks as micro-ops wanted leave the state in which those have executed and the others are queued (R104). -/
theorem finish_afterOps {ops : List MicroOp} {s : State} (h : OpsFit ops s) {k : Nat} (hk : k ≤ ops.length) :
    finish k (s.withQueue ops) = .next (s.afterOps ops k) := by
  have hfinish := finish_withQueue (h.take k) (ops.drop k)
  rwa [List.take_append_drop, List.length_take_of_le hk] at hfinish

/-- An instruction that is ready, stopped short of its last micro-op, has left the general registers, the flags, memory
and `SP`: what it changes of them it changes in its last tick (R12, R121, R137, R138). -/
theorem State.Ready.kept_in_progress {i : Instr} {s t u : State} {k : Nat} (hready : s.Ready i)
    (hexec : exec i s = .next t) (hk : k < t.queue.length) (hfinish : finish k t = .next u) :
    RegistersAndFlagsKept s u ∧ u.mem = s.mem ∧ u.sp = s.sp := by
  obtain rfl : entryAction i.entry s = t := Host.Outcome.next.inj ((exec_eq i s).symm.trans hexec)
  have hqueue := entryAction_queue i.entry hready.boundary
  rw [hqueue] at hk
  have hafter := finish_afterOps hready.opsFit (Nat.le_of_lt hk)
  rw [State.withQueue_self hqueue] at hafter
  obtain rfl := Host.Outcome.next.inj (hafter.symm.trans hfinish)
  obtain ⟨hkept, hmem⟩ := State.afterOps_kept (dropLast_entrySeq i.entry) hk (entryAction i.entry s)
  obtain ⟨-, hsp, -⟩ := runOps_frame ((entrySeq i.entry).take k) (entryAction i.entry s)
  obtain ⟨-, hsp', -, -, -, -, -, -, hmem'⟩ := entryAction_frame i.entry s
  have htransfer : ∀ f r, i.entry ≠ .transfer f r := by
    intro f r hi
    rw [hi] at hk
    exact Nat.not_lt_zero k hk
  obtain ⟨ha, hx, hy, hflags⟩ := entryAction_registers s htransfer
  exact ⟨RegistersAndFlagsKept.trans ⟨hflags, ha, hx, hy⟩ hkept, hmem.trans hmem', hsp.trans hsp'⟩

/-- Settles O55: the ticks taken have changed none of these elements, and `reset()` empties the queue. -/
theorem resetAbandonsTheInstructionInProgress : Obligations.ResetAbandonsTheInstructionInProgress := by
  intro i s t u k hready hexec hk hfinish
  obtain ⟨⟨hflags, ha, hx, hy⟩, hmem, hsp⟩ := hready.kept_in_progress hexec hk hfinish
  have hip : (hostReset u).ip = wordOf (u.mem.read 0xFFFD) (u.mem.read 0xFFFC) := rfl
  rw [hmem] at hip
  exact ⟨rfl, hip, rfl, ha, hx, hy, hflags, hmem, hsp, rfl, rfl, rfl, rfl, rfl⟩

end Sys2Proof.Machine
end
